-- ==== Sys2Proof/Word.lean ====
section
/-! DEFINITION. The word types of the block (00_scope.md R8): `u8`, `u16`, `u32`. All arithmetic is unsigned. -/

namespace Sys2Proof

/-- `u8`, one cell of the image and one byte of a stream (00_scope.md R8). -/
abbrev Byte := BitVec 8

/-- `u16`, the device offset, the checksum, an FM entry (00_scope.md R8, 30_encoding.md R67). -/
abbrev Half := BitVec 16

/-- `u32`, the frequency and offset fields of a channel record (30_encoding.md R68). -/
abbrev Word := BitVec 32

end Sys2Proof
end

