-- ==== Sys2Proof/Values.lean ====
section
/-! DEFINITION. The values the operations take and return (45_channel_record.md R153), and the inputs the block meets at
its ports (92_eei_decisions.md D1): plain data, no behaviour. -/

namespace Sys2Proof

/-- Entry type of the table `CTCSS` (R153 asks only for decidable equality; DESIGN CHOICE a number, log entry 4). -/
abbrev ToneVal := Nat

/-- Entry type of the table `DCS` (R153; DESIGN CHOICE a number, log entry 4). -/
abbrev CodeVal := Nat

/-- Entry type of the table `STEP` (R153; DESIGN CHOICE a number, log entry 4). -/
abbrev StepVal := Nat

/-- The name of a settings field or of an unlock flag, as its ASCII bytes (DESIGN CHOICE, log entry 4). -/
abbrev FieldName := List Byte

/-- Offset direction (R153, R162). `reserved` keeps the code that is none of the three assigned ones. -/
inductive Duplex where
  | dupNone
  | plus
  | minus
  | reserved (code : BitVec 2)
  deriving DecidableEq, Repr, Inhabited

/-- Transmit power (R153, R164). -/
inductive Power where
  | low
  | med
  | high
  | reserved (code : BitVec 2)
  deriving DecidableEq, Repr, Inhabited

/-- A tone (R153, R154): none, an analog tone, or a digital code of either polarity. -/
inductive Tone where
  | noTone
  | ctcss (v : ToneVal)
  | dcs (v : CodeVal) (reversed : Bool)
  deriving DecidableEq, Repr, Inhabited

/-- The exposed mode, a view of two stored flags (R165). -/
inductive Mode where
  | fm
  | nfm
  | am
  deriving DecidableEq, Repr, Inhabited

/-- The decoded channel that is not empty (R153). -/
structure Chan where
  freq10 : Word
  offset10 : Word
  duplex : Duplex
  rxTone : Tone
  txTone : Tone
  am : Bool
  narrow : Bool
  reverse : Bool
  bclo : Bool
  power : Power
  pttid : BitVec 2
  dtmfDecode : Bool
  step : StepVal
  scrambler : Byte
  deriving DecidableEq, Repr, Inhabited

/-- What `CH.DECODE` returns and `CH.ENCODE` takes (R153). -/
inductive Channel where
  | empty
  | chan (c : Chan)
  deriving DecidableEq, Repr, Inhabited

/-- The one-byte settings fields (46_names_fm_settings.md R204 to R217) and the region selector `flock` (R220). -/
inductive SetField where
  | squelch | voxLevel | micGain | displayMode | crossband | dualWatch | beep | scanResume
  | keypadLock | poweronDisplay | language | alarmMode | endOfTalk | rte | flock
  deriving DecidableEq, Repr, Inhabited

/-- One field of the settings block with its stored bytes (30_encoding.md R78): a one-byte field, a logo line, the
password, or an unlock flag. -/
inductive SetContent where
  | byteField (f : SetField) (v : Byte)
  | logo1 (line : List Byte)
  | logo2 (line : List Byte)
  | password (p : List Byte)
  | unlock (g : FieldName) (v : Byte)
  deriving DecidableEq, Repr, Inhabited

/-- Which record of the image a `record` input holds (30_encoding.md R60, the `M-` formats). -/
inductive RecordFmt where
  | chan
  | name
  | fm
  | set (f : SetField)
  | logo1
  | logo2
  | password
  | unlock (g : FieldName)
  deriving DecidableEq, Repr, Inhabited

/-- The nine host sequences (30_encoding.md R82); they have no `OPSEL`. -/
inductive HostCall where
  | deobf | xcvSend | xcvRecv | drvIdentify | drvRead | drvWrite | drvReset | syncDownload | syncUpload
  deriving DecidableEq, Repr, Inhabited

/-- The operand lines of the issue port (DESIGN CHOICE, log entry 6: the spec gives operands no encoding). A line that an
operation does not name is not examined; a line at rest is zero. -/
structure Operands where
  /-- A byte sequence: `s`, `cmd`, `r`, `data`, `t`, `p`. -/
  seq : List Byte := []
  /-- A number: a channel `n`, an FM index `i`, a logo line `k`, an image address `a`. -/
  num : Nat := 0
  /-- The count `n` of `IMG.STORE`. -/
  count : Nat := 0
  /-- A `u16`: a device offset, an FM value. -/
  half : Half := 0
  /-- A `u8`: a length, a tone code, a step byte, a setting's value. -/
  byte : Byte := 0
  /-- The `u2` tone type of `TONE.DEC`. -/
  toneType : BitVec 2 := 0
  /-- The tone of `TONE.ENC`. -/
  tone : Tone := .noTone
  /-- The step value of `STEP.ENC`. -/
  step : StepVal := 0
  /-- The channel of `CH.ENCODE`. -/
  chan : Channel := .empty
  /-- A field or flag name. -/
  name : FieldName := []
  deriving DecidableEq, Repr, Inhabited

/-- The error kinds (60_exceptions.md R251), as a program names them in `on E: ...` (30_encoding.md R83). -/
inductive ErrorKind where
  | framing
  | protocol
  | timeout
  | encoding
  | operand
  deriving DecidableEq, Repr, Inhabited

/-- What a handler does (R83): the programs of 95_test_vectors.md write `continue` and `stop` (log entry 35). -/
inductive HandlerAction where
  | goOn
  | stop
  deriving DecidableEq, Repr, Inhabited

/-- One thing that reaches the block or its host from outside (10_state.md R12, 43_framing.md section 3, 92 D1). There is no
input by which the host drains `RXQ` outside a parse: 70 R289 leaves it free to and gives no means (DESIGN CHOICE, log
entry 34). -/
inductive Input where
  /-- The host issues an operation: an `OPSEL` (30_encoding.md R81) and operand lines. -/
  | issue (opsel : Byte) (args : Operands)
  /-- The host starts a host sequence (R82). -/
  | call (m : HostCall) (args : Operands)
  /-- Bytes arrive on the receive line (R12). -/
  | line (bs : List Byte)
  /-- The bytes of a record of the image are presented to be read (log entry 11). -/
  | record (fmt : RecordFmt) (bs : List Byte)
  /-- The read in progress times out (R12, R120). -/
  | timeout
  /-- A handler line `on E: continue` or `on E: stop` of the program (R83): it belongs to the operation before it. -/
  | onError (kind : ErrorKind) (act : HandlerAction)
  deriving DecidableEq, Repr, Inhabited

end Sys2Proof
end

