-- ==== Sys2Proof/Config.lean ====
section
/-! DEFINITION. The constants the source fixes (00_scope.md R6) and the parameters it leaves open (R7). The parameters are
plain data carried in the state (log entry 3); the machine after reset holds `Config.machine`, a constant without a body,
so no claim can rest on a value of a parameter. -/

namespace Sys2Proof

/-- A field descriptor `(byte, shift, width)` of a 16-byte record (00_scope.md R8). -/
structure FieldDesc where
  byte : Nat
  shift : Nat
  width : Nat
  deriving DecidableEq, Repr, Inhabited

/-- The parameter `CH_ENCODE_ON_EMPTY` (45_channel_record.md R175). -/
inductive EncodeOnEmpty where
  | preserve
  | zeroFirst
  deriving DecidableEq, Repr, Inhabited

/-- The parameter `SETTINGS_MAP`: the image address of each settings field (20_memory.md R47, 46 R204 to R220). -/
structure SettingsMap where
  squelch : Nat
  voxLevel : Nat
  micGain : Nat
  displayMode : Nat
  crossband : Nat
  dualWatch : Nat
  beep : Nat
  scanResume : Nat
  keypadLock : Nat
  poweronDisplay : Nat
  language : Nat
  alarmMode : Nat
  endOfTalk : Nat
  rte : Nat
  flock : Nat
  logo1 : Nat
  logo2 : Nat
  password : Nat
  deriving DecidableEq, Repr, Inhabited

/-- `IMG_SIZE` (00_scope.md R6). -/
abbrev Config.imgSize : Nat := 8192

/-- `KEY_LEN` (R6). -/
abbrev Config.keyLen : Nat := 16

/-- `PROG_SIZE` (R6): the programmable prefix, what upload sends (20_memory.md R48). -/
abbrev Config.progSize : Nat := 7424

/-- `BLOCK` (R6). -/
abbrev Config.block : Nat := 128

/-- `CH_SLOTS` (R6). -/
abbrev Config.chSlots : Nat := 214

/-- `CH_REC` (R6). -/
abbrev Config.chRec : Nat := 16

/-- `NAME_SLOTS` (R6). -/
abbrev Config.nameSlots : Nat := 200

/-- `NAME_REC` (R6). -/
abbrev Config.nameRec : Nat := 16

/-- `FM_SLOTS` (R6). -/
abbrev Config.fmSlots : Nat := 16

/-- `CTCSS_LEN` (R6). -/
abbrev Config.ctcssLen : Nat := 50

/-- The bytes of `CMD_TRAILER` (R6). -/
abbrev Config.trailerLen : Nat := 4

/-- `IDENT_LEN` (R6): the identify command, prefix and trailer. -/
abbrev Config.identLen : Nat := 8

/-- `RESET_LEN` (R6). -/
abbrev Config.resetLen : Nat := 4

/-- `IDENT_ATTEMPTS` (R6; 90_conflicts.md C8). -/
abbrev Config.identAttempts : Nat := 5

/-- `READ_RSP_HDR` (R6). -/
abbrev Config.readRspHdr : Nat := 8

/-- `FW_OFFSET` (R6). -/
abbrev Config.fwOffset : Nat := 5

/-- `LOGO_REC` (R6). -/
abbrev Config.logoRec : Nat := 16

/-- `LOGO_CHARS` (R6). -/
abbrev Config.logoChars : Nat := 12

/-- `CMD_TRAILER` (R6). -/
def Config.cmdTrailer : List Byte := [0x6A, 0x39, 0x57, 0x64]

/-- The parameters of 00_scope.md R7, and the image the block starts from (10_state.md R31). A length
or a range that R7 puts in a parameter's TYPE is in the type of its field; what R7 lists as a CONSTRAINT is a premise of the
laws (Machine/Params.lean), because the block runs with ill-formed parameters too (70 R282). The fixed-length fields are
read as lists through `Config.key`, `Config.identPrefix`, `Config.writePrefix`, `Config.resetCmd`, `Config.ctcss` and
`Config.step`. -/
structure Config where
  /-- `KEY`, 16 bytes (R90). -/
  keyTable : Vector Byte Config.keyLen
  /-- `IDENT_PREFIX`, 4 bytes (R131): with the trailer the `IDENT_LEN` bytes of the identify command. -/
  identPrefixBytes : Vector Byte (Config.identLen - Config.trailerLen)
  /-- `READ_PREFIX` (R133). -/
  readPrefix : List Byte
  /-- `READ_PAD` (R133). -/
  readPad : List Byte
  /-- `WP_LEN`, the fixed length of every `WRITE_PREFIX` (R136). -/
  wpLen : Nat
  /-- `WRITE_PREFIX`: entry `d` is the byte string for `dlen = d`, 0 to 255 (R136). -/
  writePrefixTable : Vector (Vector Byte wpLen) 256
  /-- `WRITE_FLAG` (R136). -/
  writeFlag : Byte
  /-- `RESET_CMD`, 4 bytes (R139). -/
  resetCmdBytes : Vector Byte Config.resetLen
  /-- `WRITE_ACK_OPC` (R138). -/
  writeAckOpc : Byte
  /-- `ACK_OPC_POS` (R138). -/
  ackOpcPos : Nat
  /-- `ACK_OFFLO_POS` (R138). -/
  ackOffLoPos : Nat
  /-- `ACK_OFFHI_POS` (R138). -/
  ackOffHiPos : Nat
  /-- `CH_BASE` (R47, R150). -/
  chBase : Nat
  /-- `NAME_BASE` (R47, R190). -/
  nameBase : Nat
  /-- `FM_BASE` (R47, R200). -/
  fmBase : Nat
  /-- `F_DUPLEX` (R72). -/
  fDuplex : FieldDesc
  /-- `F_AM` (R72). -/
  fAm : FieldDesc
  /-- `F_BW` (R72). -/
  fBw : FieldDesc
  /-- `F_REV` (R72). -/
  fRev : FieldDesc
  /-- `F_POWER` (R72). -/
  fPower : FieldDesc
  /-- `F_BCLO` (R72). -/
  fBclo : FieldDesc
  /-- `F_PTTID` (R73). -/
  fPttid : FieldDesc
  /-- `F_DTMFDEC` (R73). -/
  fDtmfdec : FieldDesc
  /-- `F_SCR` (R75). -/
  fScr : FieldDesc
  /-- `SCR_MAX` (R75, R169). -/
  scrMax : Nat
  /-- `DUP_PLUS`, a code of the duplex field (R162); that it fits the field is a constraint of R7. -/
  dupPlus : Nat
  /-- `DUP_MINUS` (R162). -/
  dupMinus : Nat
  /-- `DUP_NONE` (R162). -/
  dupNone : Nat
  /-- `PWR_LOW`, a code of the power field (R164); that it fits the field is a constraint of R7. -/
  pwrLow : Nat
  /-- `PWR_MED` (R164). -/
  pwrMed : Nat
  /-- `PWR_HIGH` (R164). -/
  pwrHigh : Nat
  /-- `CTCSS`, 50 entries (R155). -/
  ctcssTable : Vector ToneVal Config.ctcssLen
  /-- `DCS`; its length is `DCS_LEN` (R155). -/
  dcs : List CodeVal
  /-- `STEP_LEN` less one: `STEP_LEN` is 1 to 8 (R170). -/
  stepTop : Fin 8
  /-- `STEP` (R170). -/
  stepTable : Vector StepVal (stepTop.val + 1)
  /-- `STEP_DEFAULT` (R170). -/
  stepDefault : StepVal
  /-- `NAME_PAD_WIDTH`, 0 to 16, default 16 (46 R192). -/
  namePad : Fin (Config.nameRec + 1) := 16
  /-- `CH_ENCODE_ON_EMPTY`, default `preserve` (R175). -/
  chEncodeOnEmpty : EncodeOnEmpty := .preserve
  /-- `SETTINGS_MAP` (R202 to R220). -/
  settingsMap : SettingsMap
  /-- `PWD_LEN` (R219). -/
  pwdLen : Nat
  /-- `UNLOCK_FLAGS`: the names of the flags, each with its address (R221). R7 does not ask that the names differ: the first
  entry of a name counts (DESIGN CHOICE, log entry 33). -/
  unlockFlags : List (FieldName × Nat)
  /-- MODEL: what `IMG` holds where nothing has been written, from address 0; past the list a byte is `0xFF`
  (10_state.md R31: unspecified, so a free parameter; log entry 1). -/
  startImage : List Byte
  deriving DecidableEq, Repr, Inhabited

/-- The parameters of the machine at hand: a free constant (00_scope.md R7: "No rule of this spec depends on a particular
value of any of them"; log entry 3). -/
opaque Config.machine : Config

/-- `KEY` as a list. -/
def Config.key (c : Config) : List Byte := c.keyTable.toList

/-- `IDENT_PREFIX` as a list. -/
def Config.identPrefix (c : Config) : List Byte := c.identPrefixBytes.toList

/-- `WRITE_PREFIX` as the list of its 256 values. -/
def Config.writePrefix (c : Config) : List (List Byte) := c.writePrefixTable.toList.map Vector.toList

/-- `RESET_CMD` as a list. -/
def Config.resetCmd (c : Config) : List Byte := c.resetCmdBytes.toList

/-- `CTCSS` as a list. -/
def Config.ctcss (c : Config) : List ToneVal := c.ctcssTable.toList

/-- `STEP` as a list; its length is `STEP_LEN`. -/
def Config.step (c : Config) : List StepVal := c.stepTable.toList

/-- `NAME_PAD_WIDTH` as a number. -/
def Config.namePadWidth (c : Config) : Nat := c.namePad.val

end Sys2Proof
end

