-- ==== Sys2Proof/Machine/Bytes.lean ====
section
/-! DEFINITION. Byte order and bit fields (00_scope.md R8, 20_memory.md R41): everything is little-endian, a field of a
record is the triple `(byte, shift, width)`. -/

namespace Sys2Proof.Machine

/-- `r[i]` of a byte sequence; every use is inside the sequence, past it the byte is zero. -/
def byteAt (r : List Byte) (i : Nat) : Byte := r.getD i 0

/-- `rep(v, n)` (R8). -/
def rep (v : Byte) (n : Nat) : List Byte := List.replicate n v

/-- `le16` (R8, R41): the first byte is the least significant. -/
def le16 (b0 b1 : Byte) : Half := b1 ++ b0

/-- `le32` (R8, R41). -/
def le32 (b0 b1 b2 b3 : Byte) : Word := b3 ++ b2 ++ b1 ++ b0

/-- `LE16` (R8): the two bytes of a `u16`, low byte first. -/
def halfBytes (v : Half) : List Byte := [v.extractLsb' 0 8, v.extractLsb' 8 8]

/-- `LE32` (R8). -/
def wordBytes (v : Word) : List Byte :=
  [v.extractLsb' 0 8, v.extractLsb' 8 8, v.extractLsb' 16 8, v.extractLsb' 24 8]

/-- `le32(r[i .. i+4))`. -/
def wordAt (r : List Byte) (i : Nat) : Word :=
  le32 (byteAt r i) (byteAt r (i + 1)) (byteAt r (i + 2)) (byteAt r (i + 3))

/-- `(1 << F.width) - 1`, in eight bits (R8). -/
def lowMask (f : FieldDesc) : Byte := (1#8 <<< f.width) - 1#8

/-- `mask(F)` (R8). -/
def fieldMask (f : FieldDesc) : Byte := lowMask f <<< f.shift

/-- `getf(r, F)` (R8); DESIGN CHOICE for a descriptor that is no field of the record (log entry 30): what lies outside reads
as 0. -/
def getf (r : List Byte) (f : FieldDesc) : Byte := (byteAt r f.byte >>> f.shift) &&& lowMask f

/-- `putf(r, F, v)` (R8, 20_memory.md R46): all other bytes and all other bits unchanged. DESIGN CHOICE for a descriptor that
is no field of the record (log entry 30): past the record nothing changes, bits past bit 7 are dropped. -/
def putf (r : List Byte) (f : FieldDesc) (v : Byte) : List Byte :=
  r.set f.byte ((byteAt r f.byte &&& ~~~ fieldMask f) ||| ((v <<< f.shift) &&& fieldMask f))

/-- A one-bit field read as a boolean (R8: "a bit `1` reads as `true`"). -/
def getBit (r : List Byte) (f : FieldDesc) : Bool := getf r f == 1

/-- `putf` of `1 if b else 0`. -/
def putBit (r : List Byte) (f : FieldDesc) (b : Bool) : List Byte := putf r f (if b then 1 else 0)

/-- The ASCII bytes of a name (30_encoding.md R83, "a quoted ASCII string"). -/
def ascii (t : String) : List Byte := t.toList.map fun ch => BitVec.ofNat 8 ch.toNat

/-- The first position of `v` in a table (45_channel_record.md R157, R171). R155 asks for distinct entries, so that there is at
most one; that of repeated entries, which are ill formed, the first counts is a DESIGN CHOICE (log entry 32). -/
def tableIndex (v : Nat) : List Nat → Option Nat
  | [] => none
  | x :: xs => if x = v then some 0 else (tableIndex v xs).map (· + 1)

end Sys2Proof.Machine
end

