-- ==== Sys2Proof/Machine/State.lean ====
section
/-! DEFINITION. The state of the block and of what a model carries beside it (10_state.md R10), plain data; the reasons a
step can stop; the state after reset (R31). -/

namespace Sys2Proof.Machine

/-- The receive sequencer `RXS` (10_state.md R18). -/
inductive RxStage where
  | idle
  | hdr
  | pay
  | trl
  deriving DecidableEq, Repr, Inhabited

/-- The status register `ERR` (10_state.md R20). -/
structure ErrReg where
  kind : BitVec 3
  info : BitVec 8
  deriving DecidableEq, Repr, Inhabited

/-- Every cause of an error, one per row of the table of 60_exceptions.md R251. -/
inductive Cause where
  /-- `FramingError(BAD_HEAD)`. -/
  | badHead
  /-- `FramingError(BAD_RSVD)`. -/
  | badRsvd
  /-- `FramingError(BAD_TAIL)`. -/
  | badTail
  /-- `ProtocolError(SHORT_REPLY)`. -/
  | shortReply
  /-- `ProtocolError(TIMEOUT)`. -/
  | protoTimeout
  /-- `ProtocolError(IDENT_FAILED)`. -/
  | identFailed
  /-- `ProtocolError(WRITE_NAK)`. -/
  | writeNak
  /-- `TimeoutError(IN_HDR)`. -/
  | inHdr
  /-- `TimeoutError(IN_PAY)`. -/
  | inPay
  /-- `TimeoutError(IN_TRL)`. -/
  | inTrl
  /-- `TimeoutError(IN_TX)`: only in a model that adds failing transmits (47 R233); this one never raises it. -/
  | inTx
  /-- `EncodingError(TONE)`. -/
  | tone
  /-- `EncodingError(STEP)`. -/
  | step
  /-- `EncodingError(ENUM)`. -/
  | enumValue
  /-- `OperandError(TOO_LONG)`. -/
  | tooLong
  /-- `OperandError(OOB)`. -/
  | oob
  /-- `OperandError(BAD_OP)`. -/
  | badOp
  /-- `OperandError(BAD_CHANNEL)`. -/
  | badChannel
  /-- `OperandError(BAD_FREQ)`. -/
  | badFreq
  /-- `OperandError(BAD_DUPLEX)`. -/
  | badDuplex
  /-- `OperandError(BAD_ENUM)`. -/
  | badEnum
  /-- `OperandError(BAD_NAME)`. -/
  | badName
  /-- `OperandError(BAD_CHAR)`. -/
  | badChar
  /-- `OperandError(BAD_INDEX)`. -/
  | badIndex
  /-- `OperandError(BAD_FIELD)`. -/
  | badField
  /-- `OperandError(BUSY)`: on the answer of a refused issue only, never in `ERR` (70 R288). -/
  | busy
  deriving DecidableEq, Repr, Inhabited

/-- What the issue port answers (00_scope.md R8 "An operation returns a value or raises"; 92 D1). -/
inductive Result where
  /-- Nothing has been answered since reset. -/
  | idle
  /-- The operation ended and returns nothing. -/
  | done
  /-- A byte sequence. -/
  | bytes (bs : List Byte)
  /-- A `u16`. -/
  | half (v : Half)
  /-- A `u8`. -/
  | byte (v : Byte)
  /-- A boolean. -/
  | bool (b : Bool)
  /-- A decoded channel. -/
  | channel (ch : Channel)
  /-- A tone. -/
  | tone (t : Tone)
  /-- A tone type and code. -/
  | toneCode (type : BitVec 2) (code : Byte)
  /-- A tuning step. -/
  | step (v : StepVal)
  /-- A step index. -/
  | stepIndex (i : BitVec 3)
  /-- A download ended: it returns nothing, and the firmware string is available to the host (47 R241). -/
  | synced (fw : List Byte)
  /-- The operation raised, or the issue was refused. -/
  | error (c : Cause)
  deriving DecidableEq, Repr, Inhabited

/-- What the host does once `DRV.IDENTIFY` has its string (47 R236, R241, R242). -/
inductive AfterIdent where
  | answer
  | download
  | upload
  deriving DecidableEq, Repr, Inhabited

/-- MODEL (log entry 8): the host sequence that waits for the frame being received. -/
inductive HostSeq where
  /-- None: the payload is the answer (`FRAME.PARSE`, `XCV.RECV`). -/
  | ret
  /-- `DRV.IDENTIFY`, attempt 1 to 5 (R236). -/
  | identify (attempt : Nat) (next : AfterIdent)
  /-- `DRV.READ` (R237). -/
  | read (length : Byte)
  /-- `DRV.WRITE` (R238). -/
  | write (offset : Half)
  /-- `SYNC.DOWNLOAD`, block in flight, with the download buffer (10_state.md R29(c)) and the firmware string (R241). -/
  | download (block : Nat) (buf fw : List Byte)
  /-- `SYNC.UPLOAD`, block in flight (R242). -/
  | upload (block : Nat)
  deriving DecidableEq, Repr, Inhabited

/-- The image: listed cells by rising address; an unlisted one reads as `Config.startImage` says (log entry 1). -/
abbrev Memory := List Host.Cell

/-- The state (10_state.md R10), and beside it the parameters and the model's own fields (INVENTORY.md). -/
structure State where
  /-- `IMG` (R11). -/
  img : Memory
  /-- `ERR` (R20). -/
  err : ErrReg
  /-- `BUSY` (R21). -/
  busy : Bool
  /-- `CRC` (R13), 17 bits. -/
  crc : BitVec 17
  /-- `KI` (R14). -/
  ki : BitVec 4
  /-- `LEN` (R15). -/
  len : BitVec 8
  /-- `CNT` (R16). -/
  cnt : BitVec 9
  /-- `HB[0..3]` (R17). -/
  hb : List Byte
  /-- `TB[0..3]` (R17). -/
  tb : List Byte
  /-- `RXB[0..254]` (R17). -/
  rxb : List Byte
  /-- `RXS` (R18). -/
  rxs : RxStage
  /-- `TXQ` (R12). -/
  txq : List Byte
  /-- `RXQ` (R12). -/
  rxq : List Byte
  /-- Parameters and constant tables (00_scope.md R7, 10_state.md R22); written by nothing. -/
  cfg : Config
  /-- MODEL: the host sequence in progress. -/
  seq : HostSeq
  /-- MODEL: the answer port. -/
  out : Result
  /-- MODEL: what the host and the environment do next, first one first (log entry 5). -/
  inq : List Input
  deriving DecidableEq, Repr, Inhabited

/-- Reasons the machine stops with a fault: there is none. Every error of this block is the abort of an operation with
`ERR` written (60_exceptions.md R250), a next state. -/
inductive Fault where
  deriving DecidableEq, Repr

/-- Reasons a step has no meaning. -/
inductive Refusal where
  /-- Raised by `exec` for an instruction without a meaning; no arm of this model does. Safe. -/
  | notModelled (mnemonic : String)
  /-- Raised by `step` for a `record` input whose byte count is not that of its format: the record port is the model's own
  (log entry 21). Safe: nothing of the spec is lost. -/
  | malformedRecord (fmt : RecordFmt)
  deriving DecidableEq, Repr

/-- The state after reset (10_state.md R31, 70_reset_and_hazards.md R280). `ERR`, `BUSY`, `RXS`, `CNT`, `TXQ` as R31 gives
them; the image lists nothing and reads as the free start image; the other working registers, which R31 leaves
unspecified, are zero (DESIGN CHOICE, log entry 2); the parameters are the free constant `Config.machine`. -/
def State.reset : State where
  img := []
  err := ⟨0, 0⟩
  busy := false
  crc := 0
  ki := 0
  len := 0
  cnt := 0
  hb := List.replicate 4 0
  tb := List.replicate 4 0
  rxb := List.replicate 255 0
  rxs := .idle
  txq := []
  rxq := []
  cfg := Config.machine
  seq := .ret
  out := .idle
  inq := []

end Sys2Proof.Machine
end

