-- ==== Sys2Proof/Machine/Flags.lean ====
section
/-! DEFINITION. The only flags of the block are the fields of `ERR` (10_state.md R25): their values by cause
(60_exceptions.md R251). -/

namespace Sys2Proof.Machine

/-- `ERR = (OK, 0)` (10_state.md R20). -/
def ErrReg.ok : ErrReg := ⟨0, 0⟩

/-- `ERR.KIND` of a cause (R251): 1 `FramingError`, 2 `ProtocolError`, 3 `TimeoutError`, 4 `EncodingError`,
5 `OperandError`. -/
def Cause.kind : Cause → BitVec 3
  | .badHead | .badRsvd | .badTail => 1
  | .shortReply | .protoTimeout | .identFailed | .writeNak => 2
  | .inHdr | .inPay | .inTrl | .inTx => 3
  | .tone | .step | .enumValue => 4
  | .tooLong | .oob | .badOp | .badChannel | .badFreq | .badDuplex | .badEnum | .badName | .badChar | .badIndex
  | .badField | .busy => 5

/-- `ERR.INFO` of a cause (R251). -/
def Cause.info : Cause → BitVec 8
  | .badHead => 1
  | .badRsvd => 2
  | .badTail => 3
  | .shortReply => 1
  | .protoTimeout => 2
  | .identFailed => 3
  | .writeNak => 4
  | .inHdr => 1
  | .inPay => 2
  | .inTrl => 3
  | .inTx => 4
  | .tone => 1
  | .step => 2
  | .enumValue => 3
  | .tooLong => 1
  | .oob => 2
  | .badOp => 3
  | .badChannel => 4
  | .badFreq => 5
  | .badDuplex => 6
  | .badEnum => 7
  | .badName => 8
  | .badChar => 9
  | .badIndex => 10
  | .badField => 11
  | .busy => 12

/-- What `ERR` holds after an operation that raised `c` (R250). -/
def Cause.errReg (c : Cause) : ErrReg := ⟨c.kind, c.info⟩

/-- How many sub-codes a kind can leave in `ERR` (R251): `(5, 12)` is never written there, kinds 6 and 7 never at all. -/
def infoCount : BitVec 3 → Nat
  | 1 => 3
  | 2 => 4
  | 3 => 4
  | 4 => 3
  | 5 => 11
  | _ => 0

/-- The values `ERR` may hold (10_state.md R20, R251). -/
def ErrReg.legal (e : ErrReg) : Bool :=
  if e.kind = 0 then e.info == 0 else decide (1 ≤ e.info.toNat ∧ e.info.toNat ≤ infoCount e.kind)

end Sys2Proof.Machine
end

