-- ==== Sys2Proof/Machine/Ops.lean ====
section
/-! DEFINITION. The named operations over the state that every meaning goes through: the image (20_memory.md R40 to R46),
the streams (10_state.md R12), ending an operation with a value (R20) or by raising (60_exceptions.md R250), and the refusal
of an issue while `BUSY` (70_reset_and_hazards.md R288). -/

namespace Sys2Proof.Machine

/-- What an unlisted image address reads as: the free start image (log entry 1). -/
def imgDefault (base : List Byte) (a : Nat) : Byte := base.getD a 0xFF

/-- One byte of an image: its listed value, or what an unlisted address reads as. -/
def Memory.get (base : List Byte) : Memory → Nat → Byte
  | [], a => imgDefault base a
  | (x, v) :: m, a => if a = x then v else if a < x then imgDefault base a else Memory.get base m a

/-- The list that holds `b` at `a` before `m`, or `m` alone where `b` is what an unlisted `a` reads as. -/
def Memory.put (base : List Byte) (a : Nat) (b : Byte) (m : Memory) : Memory :=
  if b = imgDefault base a then m else (a, b) :: m

/-- Write one byte and keep the canonical form. -/
def Memory.set (base : List Byte) : Memory → Nat → Byte → Memory
  | [], a, b => Memory.put base a b []
  | (x, v) :: m, a, b =>
    if a < x then Memory.put base a b ((x, v) :: m)
    else if a = x then Memory.put base a b m
    else (x, v) :: Memory.set base m a b

/-- The canonical form from address `lo` on: addresses strictly rise, each is below 8192 (20_memory.md R40), and none is
listed with what it would read as unlisted. -/
def Memory.wfFrom (base : List Byte) : Nat → Memory → Bool
  | _, [] => true
  | lo, (x, v) :: m =>
    decide (lo ≤ x) && decide (x < Config.imgSize) && !(v == imgDefault base x) && Memory.wfFrom base (x + 1) m

/-- The canonical form of an image. -/
def Memory.wf (base : List Byte) (m : Memory) : Bool := Memory.wfFrom base 0 m

/-- Write a byte sequence from `a` on, byte `i` at `a + i` (00_scope.md R8). -/
def Memory.setBytes (base : List Byte) (m : Memory) : Nat → List Byte → Memory
  | _, [] => m
  | a, b :: bs => Memory.setBytes base (Memory.set base m a b) (a + 1) bs

/-- One byte of `IMG`. -/
def State.rd (s : State) (a : Nat) : Byte := Memory.get s.cfg.startImage s.img a

/-- The `n` bytes of `IMG` from `a` on, unchecked. -/
def State.rdBytes (s : State) (a : Nat) : Nat → List Byte
  | 0 => []
  | n + 1 => s.rd a :: s.rdBytes (a + 1) n

/-- The bytes of `IMG` replaced from `a` on, unchecked. -/
def State.wrBytes (s : State) (a : Nat) (bs : List Byte) : State :=
  { s with img := Memory.setBytes s.cfg.startImage s.img a bs }

/-- The bounds check of every access (20_memory.md R43): `a + n <= 8192`. -/
def inImage (a n : Nat) : Bool := decide (a + n ≤ Config.imgSize)

/-- `MemReadBytes(a, n)` (00_scope.md R8, 20_memory.md R43). -/
def State.memReadBytes (s : State) (a n : Nat) : Except Cause (List Byte) :=
  if inImage a n then .ok (s.rdBytes a n) else .error .oob

/-- `MemWriteBytes(a, bs)` (00_scope.md R8, 20_memory.md R43). -/
def State.memWriteBytes (s : State) (a : Nat) (bs : List Byte) : Except Cause State :=
  if inImage a bs.length then .ok (s.wrBytes a bs) else .error .oob

/-- `MemRead(a, 2)` (20_memory.md R41). -/
def State.memReadHalf (s : State) (a : Nat) : Except Cause Half :=
  if inImage a 2 then .ok (le16 (s.rd a) (s.rd (a + 1))) else .error .oob

/-- `MemRead(a, 1)`. -/
def State.memReadByte (s : State) (a : Nat) : Except Cause Byte :=
  if inImage a 1 then .ok (s.rd a) else .error .oob

/-- `TxWrite(f)` (10_state.md R12): append to the transmit log; it never fails. -/
def State.txWrite (s : State) (f : List Byte) : State := { s with txq := s.txq ++ f }

/-- `finish(k, i)` of 43_framing.md R117: `ERR` written, the sequencer idle, `CNT` and `BUSY` cleared. -/
def State.finish (s : State) (e : ErrReg) : State := { s with err := e, rxs := .idle, cnt := 0, busy := false }

/-- `raise` (60_exceptions.md R250), the one way an operation aborts: `ERR` takes kind and sub-code, `RXS <- IDLE`,
`CNT <- 0`, `BUSY <- 0`; image and streams stay as they are; no value is returned and the host sees the cause. There is no
handler and nothing to return to (R260, R261). -/
def State.raise (s : State) (c : Cause) : State := { s.finish c.errReg with out := .error c }

/-- An operation ends with a value (10_state.md R20, R21): `ERR <- (OK, 0)`, `BUSY <- 0`. -/
def State.succeed (s : State) (r : Result) : State := { s with err := ErrReg.ok, busy := false, out := r }

/-- End an operation that validated first and committed then (20_memory.md R45, 60_exceptions.md R264): on an error the
state it started from is kept, so no byte of the image has changed. -/
def State.commit (s : State) : Except Cause (State × Result) → State
  | .ok (t, r) => t.succeed r
  | .error c => s.raise c

/-- The answer to an operation issued while `BUSY = 1` (70_reset_and_hazards.md R288): nothing changes but the answer. -/
def State.refuseIssue (s : State) : State := { s with out := .error .busy }

/-- Issue an operation (10_state.md R21, 60_exceptions.md R258: `BUSY` comes before anything of the operation). -/
def issue (s : State) (body : State → State) : Host.Outcome State Fault Refusal :=
  .next (if s.busy then s.refuseIssue else body { s with busy := true })

end Sys2Proof.Machine
end

