-- ==== Sys2Proof/Machine/Operands.lean ====
section
/-! DEFINITION. The domains of the operands and what lies outside them (60_exceptions.md R256; 93 section 1.4): channel and
name numbers, FM and logo indices, text, settings names. -/

namespace Sys2Proof.Machine

/-- The slot of a channel number, 1 to 214 (45_channel_record.md R150). -/
def channelSlot (n : Nat) : Except Cause Nat :=
  if n < 1 ∨ n > Config.chSlots then .error .badChannel else .ok (n - 1)

/-- The slot of a channel number that has a name, 1 to 200 (46 R190). -/
def nameSlot (n : Nat) : Except Cause Nat :=
  if n < 1 ∨ n > Config.nameSlots then .error .badChannel else .ok (n - 1)

/-- Image address of the channel record of a slot (20_memory.md R47, R150). -/
def chanAddr (c : Config) (slot : Nat) : Nat := c.chBase + 16 * slot

/-- Image address of the name record of a slot (R47, R190). -/
def nameAddr (c : Config) (slot : Nat) : Nat := c.nameBase + 16 * slot

/-- Image address of an FM entry, index 0 to 15 (46 R200). -/
def fmAddr (c : Config) (i : Nat) : Except Cause Nat :=
  if i > 15 then .error .badIndex else .ok (c.fmBase + 2 * i)

/-- Image address of logo line 1 or 2 (46 R218). -/
def logoAddr (c : Config) (k : Nat) : Except Cause Nat :=
  if k = 1 then .ok c.settingsMap.logo1 else if k = 2 then .ok c.settingsMap.logo2 else .error .badIndex

/-- The printable range `0x20` to `0x7E` (44_commands.md R132, 46 R193). -/
def printable (b : Byte) : Bool := decide (0x20 ≤ b.toNat) && decide (b.toNat ≤ 0x7E)

/-- The checks on a text to be encoded: length first, then the character set (46 R192, R223). -/
def checkText (t : List Byte) (width : Nat) : Except Cause Unit :=
  if t.length > width then .error .badName else if t.all printable then .ok () else .error .badChar

/-- The text of a record: cut at the first `0x00` or `0xFF` among the first `width` bytes, then without the spaces that end
it (46 R191, R218). -/
def textOf (width : Nat) (r : List Byte) : List Byte :=
  (((r.take width).takeWhile fun b => b != 0x00 && b != 0xFF).reverse.dropWhile fun b => b == 0x20).reverse

/-- The spelling of the one-byte settings fields (46 R204 to R217, R220). -/
def settingName : SetField → FieldName
  | .squelch => ascii "squelch"
  | .voxLevel => ascii "vox_level"
  | .micGain => ascii "mic_gain"
  | .displayMode => ascii "display_mode"
  | .crossband => ascii "crossband"
  | .dualWatch => ascii "dual_watch"
  | .beep => ascii "beep"
  | .scanResume => ascii "scan_resume"
  | .keypadLock => ascii "keypad_lock"
  | .poweronDisplay => ascii "poweron_display"
  | .language => ascii "language"
  | .alarmMode => ascii "alarm_mode"
  | .endOfTalk => ascii "end_of_talk"
  | .rte => ascii "rte"
  | .flock => ascii "flock"

/-- The fifteen one-byte fields, in the source's order. -/
def settingFields : List SetField :=
  [.squelch, .voxLevel, .micGain, .displayMode, .crossband, .dualWatch, .beep, .scanResume, .keypadLock, .poweronDisplay,
   .language, .alarmMode, .endOfTalk, .rte, .flock]

/-- The field a name stands for (46 R202). -/
def settingOf (f : FieldName) : Option SetField := settingFields.find? fun x => settingName x == f

/-- `SETTINGS_MAP` at a one-byte field. -/
def settingAddr (m : SettingsMap) : SetField → Nat
  | .squelch => m.squelch
  | .voxLevel => m.voxLevel
  | .micGain => m.micGain
  | .displayMode => m.displayMode
  | .crossband => m.crossband
  | .dualWatch => m.dualWatch
  | .beep => m.beep
  | .scanResume => m.scanResume
  | .keypadLock => m.keypadLock
  | .poweronDisplay => m.poweronDisplay
  | .language => m.language
  | .alarmMode => m.alarmMode
  | .endOfTalk => m.endOfTalk
  | .rte => m.rte
  | .flock => m.flock

/-- The address of a named one-byte field; an unknown name is refused (46 R202, R203). -/
def fieldAddr (c : Config) (f : FieldName) : Except Cause Nat :=
  match settingOf f with
  | some x => .ok (settingAddr c.settingsMap x)
  | none => .error .badField

/-- The address of a named unlock flag; an unknown name is refused (46 R221, R225). DESIGN CHOICE for a name listed twice, which
R7 does not exclude: the first entry's address (log entry 33). -/
def flagAddr (c : Config) (g : FieldName) : Except Cause Nat :=
  match c.unlockFlags.find? fun p => p.1 == g with
  | some p => .ok p.2
  | none => .error .badField

end Sys2Proof.Machine
end

