-- ==== Sys2Proof/Machine/Channel.lean ====
section
/-! DEFINITION. The channel record unpacker and packer (45_channel_record.md; layout 30_encoding.md R68 to R75). Decode is
tolerant, encode is strict and read-modify-write. -/

namespace Sys2Proof.Machine

/-- `F_RXTYPE` (30 R69). -/
def fRxType : FieldDesc := ⟨10, 0, 2⟩

/-- `F_TXTYPE` (30 R69). -/
def fTxType : FieldDesc := ⟨10, 4, 2⟩

/-- `F_STEP` (30 R74). -/
def fStep : FieldDesc := ⟨14, 1, 3⟩

/-- An erased record (30 R84): 16 bytes of `0xFF`. -/
def erasedRecord : List Byte := rep 0xFF 16

/-- The two sentinels of the frequency field (30 R84, R152). -/
def emptyFreq (f : Word) : Bool := f == 0x00000000 || f == 0xFFFFFFFF

/-- `TONE.DEC(type, code)` (R156): an index outside its table is no tone. -/
def toneDec (c : Config) (type : BitVec 2) (code : Byte) : Tone :=
  match type.toNat with
  | 0 => .noTone
  | 1 => if code.toNat < Config.ctcssLen then .ctcss (c.ctcss.getD code.toNat 0) else .noTone
  | 2 => if code.toNat < c.dcs.length then .dcs (c.dcs.getD code.toNat 0) false else .noTone
  | _ => if code.toNat < c.dcs.length then .dcs (c.dcs.getD code.toNat 0) true else .noTone

/-- The type and code of a tone found at index `i`, or `EncodingError(TONE)` (R157). DESIGN CHOICE for an ill-formed `DCS` of
more than 256 entries: the low 8 bits of the index (log entry 27). -/
def toneCodeAt (type : BitVec 2) : Option Nat → Except Cause (BitVec 2 × Byte)
  | some i => .ok (type, BitVec.ofNat 8 i)
  | none => .error .tone

/-- `TONE.ENC(t)` (R157, R158): no tone is `(0, 0)`; a value absent from its table is an error, never clamped. -/
def toneEnc (c : Config) : Tone → Except Cause (BitVec 2 × Byte)
  | .noTone => .ok (0, 0)
  | .ctcss v => toneCodeAt 1 (tableIndex v c.ctcss)
  | .dcs v false => toneCodeAt 2 (tableIndex v c.dcs)
  | .dcs v true => toneCodeAt 3 (tableIndex v c.dcs)

/-- `STEP.DEC(b)` (R170): the index in bits 3 to 1; past the list, the default. -/
def stepDec (c : Config) (b : Byte) : StepVal :=
  if (b.extractLsb' 1 3).toNat < c.step.length then c.step.getD (b.extractLsb' 1 3).toNat 0 else c.stepDefault

/-- `STEP.ENC(v)` (R171). -/
def stepEnc (c : Config) (v : StepVal) : Except Cause (BitVec 3) :=
  match tableIndex v c.step with
  | some i => .ok (BitVec.ofNat 3 i)
  | none => .error .step

/-- The code that a reserved duplex or power keeps of the field's value: a `u2` (R153). Of a value above 3, which only an
ill-formed descriptor gives, the low two bits (DEDUCED, log entry 16). -/
def reservedCode (v : Nat) : BitVec 2 := BitVec.ofNat 2 v

/-- `duplex_of(rec)` (R162): a zero offset is no duplex, whatever the field holds; the whole value of the field is compared. -/
def duplexOf (c : Config) (r : List Byte) : Duplex :=
  let code := (getf r c.fDuplex).toNat
  if wordAt r 4 = 0 then .dupNone
  else if code = c.dupNone then .dupNone
  else if code = c.dupPlus then .plus
  else if code = c.dupMinus then .minus
  else .reserved (reservedCode code)

/-- `duplex_enc(d, offset10)` (R163): a direction with a zero offset is refused. -/
def duplexEnc (c : Config) (d : Duplex) (offset10 : Word) : Except Cause (Nat × Word) :=
  match d with
  | .dupNone => .ok (c.dupNone, 0)
  | .plus => if offset10 = 0 then .error .badDuplex else .ok (c.dupPlus, offset10)
  | .minus => if offset10 = 0 then .error .badDuplex else .ok (c.dupMinus, offset10)
  | .reserved k =>
    if offset10 = 0 ∨ k.toNat = c.dupNone ∨ k.toNat = c.dupPlus ∨ k.toNat = c.dupMinus then .error .badDuplex
    else .ok (k.toNat, offset10)

/-- `power_of(rec)` (R164): the whole value of the field is compared. -/
def powerOf (c : Config) (r : List Byte) : Power :=
  let code := (getf r c.fPower).toNat
  if code = c.pwrLow then .low
  else if code = c.pwrMed then .med
  else if code = c.pwrHigh then .high
  else .reserved (reservedCode code)

/-- `power_enc(p)` (R164). -/
def powerEnc (c : Config) : Power → Except Cause Nat
  | .low => .ok c.pwrLow
  | .med => .ok c.pwrMed
  | .high => .ok c.pwrHigh
  | .reserved k =>
    if k.toNat = c.pwrLow ∨ k.toNat = c.pwrMed ∨ k.toNat = c.pwrHigh then .error .badEnum else .ok k.toNat

/-- The fields of a record that is not empty (R172). `pttid` is a `u2` (R153, R168): of a wider value, which only an ill-formed
descriptor gives, the low two bits (DEDUCED, log entry 16). -/
def chanOf (c : Config) (r : List Byte) : Chan where
  freq10 := wordAt r 0
  offset10 := wordAt r 4
  duplex := duplexOf c r
  rxTone := toneDec c ((getf r fRxType).setWidth 2) (byteAt r 8)
  txTone := toneDec c ((getf r fTxType).setWidth 2) (byteAt r 9)
  am := getBit r c.fAm
  narrow := getBit r c.fBw
  reverse := getBit r c.fRev
  bclo := getBit r c.fBclo
  power := powerOf c r
  pttid := (getf r c.fPttid).setWidth 2
  dtmfDecode := getBit r c.fDtmfdec
  step := stepDec c (byteAt r 14)
  scrambler := getf r c.fScr

/-- A record as a channel (R172): an empty one is `Empty` and no other byte of it is looked at. -/
def channelOf (c : Config) (r : List Byte) : Channel :=
  if emptyFreq (wordAt r 0) then .empty else .chan (chanOf c r)

/-- What validation computes before any byte changes (R174). -/
structure Packed where
  dcode : Nat
  off : Word
  rxt : BitVec 2
  rxc : Byte
  txt : BitVec 2
  txc : Byte
  pcode : Nat
  sidx : BitVec 3
  deriving DecidableEq, Repr, Inhabited

/-- `validate(n, ch)` after the channel number (R174): the checks in their order, `BAD_FREQ`, `BAD_DUPLEX`, `TONE` for rx
and for tx, `BAD_ENUM`, `STEP`, `ENUM`. -/
def validate (c : Config) (ch : Chan) : Except Cause Packed :=
  if emptyFreq ch.freq10 then .error .badFreq
  else do
    let d ← duplexEnc c ch.duplex ch.offset10
    let rx ← toneEnc c ch.rxTone
    let tx ← toneEnc c ch.txTone
    let pcode ← powerEnc c ch.power
    let sidx ← stepEnc c ch.step
    if ch.scrambler.toNat > c.scrMax then .error .enumValue
    else .ok ⟨d.1, d.2, rx.1, rx.2, tx.1, tx.2, pcode, sidx⟩

/-- The record before the fields go in (R175): with `zero_first`, an erased record is cleared. -/
def startRecord (c : Config) (r : List Byte) : List Byte :=
  if c.chEncodeOnEmpty = .zeroFirst ∧ r = erasedRecord then rep 0x00 16 else r

/-- The whole-byte fields of a record, bytes 0 to 9 (R175). -/
def putBytes (r : List Byte) (ch : Chan) (p : Packed) : List Byte :=
  wordBytes ch.freq10 ++ wordBytes p.off ++ [p.rxc, p.txc] ++ r.drop 10

/-- The record that `CH.ENCODE` stores over `r` (R175): whole bytes, then every bit field by `putf`, so that the bits no
field covers stay (R179). -/
def packRecord (c : Config) (r : List Byte) (ch : Chan) (p : Packed) : List Byte :=
  let r := putBytes (startRecord c r) ch p
  let r := putf r fRxType (p.rxt.setWidth 8)
  let r := putf r fTxType (p.txt.setWidth 8)
  let r := putf r c.fDuplex (BitVec.ofNat 8 p.dcode)
  let r := putBit r c.fAm ch.am
  let r := putBit r c.fBw ch.narrow
  let r := putBit r c.fRev ch.reverse
  let r := putf r c.fPower (BitVec.ofNat 8 p.pcode)
  let r := putBit r c.fBclo ch.bclo
  let r := putf r c.fPttid (ch.pttid.setWidth 8)
  let r := putBit r c.fDtmfdec ch.dtmfDecode
  let r := putf r fStep (p.sidx.setWidth 8)
  putf r c.fScr ch.scrambler

/-- `rec(n)` (R150, R151): the 16 bytes of a channel's record; the number is checked before anything is read. -/
def State.channelRecord (s : State) (n : Nat) : Except Cause (List Byte) := do
  let slot ← channelSlot n
  s.memReadBytes (chanAddr s.cfg slot) 16

/-- `CH.ERASE(n)` (R176): the record, and for `n <= 200` the name record, become all `0xFF`. -/
def State.eraseChannel (s : State) (n : Nat) : Except Cause State := do
  let slot ← channelSlot n
  let t ← s.memWriteBytes (chanAddr s.cfg slot) erasedRecord
  if n ≤ Config.nameSlots then t.memWriteBytes (nameAddr s.cfg slot) erasedRecord else .ok t

/-- `CH.ENCODE(n, ch)` (R175, R181): encoding `Empty` is erasing; otherwise validate, read, modify, write once. -/
def State.encodeChannel (s : State) (n : Nat) : Channel → Except Cause State
  | .empty => s.eraseChannel n
  | .chan ch => do
    let slot ← channelSlot n
    let p ← validate s.cfg ch
    let r ← s.memReadBytes (chanAddr s.cfg slot) 16
    s.memWriteBytes (chanAddr s.cfg slot) (packRecord s.cfg r ch p)

/-- `freq_hz(ch)` (R161). -/
def freqHz (ch : Chan) : Nat := 10 * ch.freq10.toNat

/-- `offset_hz(ch)` (R161). -/
def offsetHz (ch : Chan) : Nat := 10 * ch.offset10.toNat

/-- A field from hertz (R161): refused, never rounded, where the value is no multiple of 10 or does not fit. -/
def fieldOfHz (hz : Nat) : Except Cause Word :=
  if hz % 10 = 0 ∧ hz / 10 < 2 ^ 32 then .ok (BitVec.ofNat 32 (hz / 10)) else .error .badFreq

/-- `mode_of(ch)` (R165). -/
def modeOf (ch : Chan) : Mode := if ch.am then .am else if ch.narrow then .nfm else .fm

/-- `with_mode(ch, m)` (R165). -/
def withMode (ch : Chan) : Mode → Chan
  | .am => { ch with am := true, narrow := false }
  | .nfm => { ch with am := false, narrow := true }
  | .fm => { ch with am := false, narrow := false }

/-- `CH.DECODE` (R172). -/
def execChDecode (n : Nat) (s : State) : Host.Outcome State Fault Refusal :=
  issue s fun t => t.commit ((t.channelRecord n).map fun r => (t, .channel (channelOf t.cfg r)))

/-- `CH.ENCODE` (R175). -/
def execChEncode (n : Nat) (ch : Channel) (s : State) : Host.Outcome State Fault Refusal :=
  issue s fun t => t.commit ((t.encodeChannel n ch).map fun u => (u, .done))

/-- `CH.ERASE` (R176). -/
def execChErase (n : Nat) (s : State) : Host.Outcome State Fault Refusal :=
  issue s fun t => t.commit ((t.eraseChannel n).map fun u => (u, .done))

/-- `CH.ISEMPTY` (R152). -/
def execChIsEmpty (n : Nat) (s : State) : Host.Outcome State Fault Refusal :=
  issue s fun t => t.commit ((t.channelRecord n).map fun r => (t, .bool (emptyFreq (wordAt r 0))))

/-- `TONE.DEC` (R156): never an error. -/
def execToneDec (type : BitVec 2) (code : Byte) (s : State) : Host.Outcome State Fault Refusal :=
  issue s fun t => t.succeed (.tone (toneDec t.cfg type code))

/-- `TONE.ENC` (R157). -/
def execToneEnc (v : Tone) (s : State) : Host.Outcome State Fault Refusal :=
  issue s fun t => t.commit ((toneEnc t.cfg v).map fun p => (t, .toneCode p.1 p.2))

/-- `STEP.DEC` (R170): never an error. -/
def execStepDec (b : Byte) (s : State) : Host.Outcome State Fault Refusal :=
  issue s fun t => t.succeed (.step (stepDec t.cfg b))

/-- `STEP.ENC` (R171). -/
def execStepEnc (v : StepVal) (s : State) : Host.Outcome State Fault Refusal :=
  issue s fun t => t.commit ((stepEnc t.cfg v).map fun i => (t, .stepIndex i))

end Sys2Proof.Machine
end

