-- ==== Sys2Proof/Machine/Command.lean ====
section
/-! DEFINITION. Command and reply payloads (44_commands.md): pure, they touch no stream and no image byte. -/

namespace Sys2Proof.Machine

/-- `CMD.IDENT()` (R131). -/
def cmdIdent (c : Config) : List Byte := c.identPrefix ++ Config.cmdTrailer

/-- `CMD.READ(offset, length)` (R133). -/
def cmdRead (c : Config) (offset : Half) (length : Byte) : List Byte :=
  c.readPrefix ++ halfBytes offset ++ [length] ++ c.readPad ++ Config.cmdTrailer

/-- `CMD.WRITE(data, offset)` (R136): refused where the payload would pass 255 bytes; the trailer comes before the data
(90_conflicts.md C10). -/
def cmdWrite (c : Config) (data : List Byte) (offset : Half) : Except Cause (List Byte) :=
  if c.wpLen + 8 + data.length > 255 then .error .tooLong
  else .ok (c.writePrefix.getD data.length [] ++ halfBytes offset ++ [BitVec.ofNat 8 data.length, c.writeFlag] ++
    Config.cmdTrailer ++ data)

/-- `CMD.RESET()` (R139): no trailer. -/
def cmdReset (c : Config) : List Byte := c.resetCmd

/-- `RSP.IDENT(r)` (R132): from offset 5 up to the first byte that is not printable. -/
def rspIdent (r : List Byte) : List Byte := (r.drop Config.fwOffset).takeWhile printable

/-- `RSP.READ(r, length)` (R134): the 8 header bytes are not examined, the excess is dropped. -/
def rspRead (r : List Byte) (length : Byte) : Except Cause (List Byte) :=
  if (r.drop Config.readRspHdr).length < length.toNat then .error .shortReply
  else .ok ((r.drop Config.readRspHdr).take length.toNat)

/-- `RSP.WRITE(r, offset)` (R138): opcode and both bytes of the echo must match; a short reply is no acknowledgement. -/
def rspWrite (c : Config) (r : List Byte) (offset : Half) : Bool :=
  if r.length ≤ max (max c.ackOpcPos c.ackOffLoPos) c.ackOffHiPos then false
  else byteAt r c.ackOpcPos == c.writeAckOpc && byteAt r c.ackOffLoPos == offset.extractLsb' 0 8 &&
    byteAt r c.ackOffHiPos == offset.extractLsb' 8 8

/-- `CMD.IDENT` (R131). -/
def execCmdIdent (s : State) : Host.Outcome State Fault Refusal :=
  issue s fun t => t.succeed (.bytes (cmdIdent t.cfg))

/-- `RSP.IDENT` (R132). -/
def execRspIdent (r : List Byte) (s : State) : Host.Outcome State Fault Refusal :=
  issue s fun t => t.succeed (.bytes (rspIdent r))

/-- `CMD.READ` (R133). -/
def execCmdRead (offset : Half) (length : Byte) (s : State) : Host.Outcome State Fault Refusal :=
  issue s fun t => t.succeed (.bytes (cmdRead t.cfg offset length))

/-- `RSP.READ` (R134). -/
def execRspRead (r : List Byte) (length : Byte) (s : State) : Host.Outcome State Fault Refusal :=
  issue s fun t => t.commit ((rspRead r length).map fun d => (t, .bytes d))

/-- `CMD.WRITE` (R136). -/
def execCmdWrite (data : List Byte) (offset : Half) (s : State) : Host.Outcome State Fault Refusal :=
  issue s fun t => t.commit ((cmdWrite t.cfg data offset).map fun d => (t, .bytes d))

/-- `RSP.WRITE` (R138): `false` is a result, not an error. -/
def execRspWrite (r : List Byte) (offset : Half) (s : State) : Host.Outcome State Fault Refusal :=
  issue s fun t => t.succeed (.bool (rspWrite t.cfg r offset))

/-- `CMD.RESET` (R139): the command resets the radio, not this block. -/
def execCmdReset (s : State) : Host.Outcome State Fault Refusal :=
  issue s fun t => t.succeed (.bytes (cmdReset t.cfg))

end Sys2Proof.Machine
end

