-- ==== Sys2Proof/Machine/Crc.lean ====
section
/-! DEFINITION. The checksum (42_checksum.md): `CRC16` on the 17-bit shift register `CRC`. -/

namespace Sys2Proof.Machine

/-- One of the eight rounds (R100): shift left in 17 bits; on overflow of bit 16, xor the polynomial and mask to 16 bits. -/
def crcShift (c : BitVec 17) : BitVec 17 :=
  if (c <<< 1).getLsbD 16 then ((c <<< 1) ^^^ 0x1021#17) &&& 0xFFFF#17 else c <<< 1

/-- One input byte (R100): it meets bits 15 to 8, then eight rounds. -/
def crcByte (c : BitVec 17) (b : Byte) : BitVec 17 := Nat.repeat crcShift 8 (c ^^^ (b.setWidth 17 <<< 8))

/-- The register after a byte sequence, from 0 (R100). -/
def crcReg (bs : List Byte) : BitVec 17 := bs.foldl crcByte 0

/-- `CRC16(s)` (R100): bits 15 to 0 of the register. -/
def crc16 (bs : List Byte) : Half := (crcReg bs).setWidth 16

/-- `CRC16` (R100): writes `CRC`, returns the checksum; total. -/
def State.opCrc16 (s : State) (bs : List Byte) : State :=
  { s with crc := crcReg bs }.succeed (.half (crc16 bs))

/-- `CRC16` (R100). -/
def execCrc16 (bs : List Byte) (s : State) : Host.Outcome State Fault Refusal := issue s fun t => t.opCrc16 bs

end Sys2Proof.Machine
end

