-- ==== Sys2Proof/Machine/Obf.lean ====
section
/-! DEFINITION. Obfuscation (41_obfuscation.md): `OBF` and its other name `DEOBF`. -/

namespace Sys2Proof.Machine

/-- The loop of `OBF` from key index `ki` (R90): `out[i] <- s[i] xor KEY[KI]`, then `KI <- (KI + 1) mod 16`. -/
def obfBytes (key : List Byte) : BitVec 4 → List Byte → List Byte
  | _, [] => []
  | ki, b :: bs => (b ^^^ byteAt key ki.toNat) :: obfBytes key (ki + 1) bs

/-- `KI` after the loop (R90). -/
def obfIndex : BitVec 4 → List Byte → BitVec 4
  | ki, [] => ki
  | ki, _ :: bs => obfIndex (ki + 1) bs

/-- The datapath of one `OBF` call (R90): `KI` starts at 0 and is left at `len(s) mod 16`. -/
def State.obf (s : State) (bs : List Byte) : State × List Byte :=
  ({ s with ki := obfIndex 0 bs }, obfBytes s.cfg.key 0 bs)

/-- The operation `OBF` on an idle block (R90): total, `ERR <- (OK, 0)`. -/
def State.opObf (s : State) (bs : List Byte) : State :=
  (s.obf bs).1.succeed (.bytes (s.obf bs).2)

/-- `OBF` (R90). -/
def execObf (bs : List Byte) (s : State) : Host.Outcome State Fault Refusal := issue s fun t => t.opObf bs

/-- `DEOBF` (R93): the same transform as `OBF`. -/
def execDeobf (bs : List Byte) (s : State) : Host.Outcome State Fault Refusal := issue s fun t => t.opObf bs

end Sys2Proof.Machine
end

