-- ==== Sys2Proof/Machine/Frame.lean ====
section
/-! DEFINITION. Framing (43_framing.md): building a frame, and the receive sequencer of R116 to R120 that takes one apart,
one byte at a time; beside it the function view of R113. -/

namespace Sys2Proof.Machine

/-- `HEAD` (00_scope.md R6). -/
def magicHead : List Byte := [0xAB, 0xCD]

/-- `TAIL` (R6). -/
def magicTail : List Byte := [0xDC, 0xBA]

/-- `RSVD` (R6). -/
def rsvdByte : Byte := 0x00

/-- What is obfuscated (R110, 42 R102): the payload, then its checksum low byte first. -/
def frameBody (cmd : List Byte) : List Byte := cmd ++ halfBytes (crc16 cmd)

/-- The bytes of a frame (R110, 30_encoding.md R61). -/
def frameBytes (c : Config) (cmd : List Byte) : List Byte :=
  magicHead ++ [BitVec.ofNat 8 cmd.length, rsvdByte] ++ obfBytes c.key 0 (frameBody cmd) ++ magicTail

/-- `FRAME.BUILD` as a step of a larger sequence (R110): it writes `LEN`, `CRC`, `KI` and gives the frame, or refuses a
payload longer than the length byte can say. -/
def State.frameBuild (s : State) (cmd : List Byte) : Except Cause (State × List Byte) :=
  if cmd.length > 255 then .error .tooLong
  else .ok ({ s with len := BitVec.ofNat 8 cmd.length, crc := crcReg cmd, ki := obfIndex 0 (frameBody cmd) },
    frameBytes s.cfg cmd)

/-- The operation `FRAME.BUILD` (R110): the frame is returned, not sent. -/
def State.opFrameBuild (s : State) (cmd : List Byte) : State :=
  s.commit ((s.frameBuild cmd).map fun p => (p.1, .bytes p.2))

/-- `FRAME.BUILD` (R110). -/
def execFrameBuild (cmd : List Byte) (s : State) : Host.Outcome State Fault Refusal := issue s fun t => t.opFrameBuild cmd

/-- How one frame reception ends: with a payload, or raising (R113). -/
abbrev ParseEnd := Except Cause (List Byte)

/-- The header checks, in the order of R114: the magic before the reserved byte. -/
def headerCheck (hb : List Byte) : Except Cause Byte :=
  if byteAt hb 0 ≠ 0xAB ∨ byteAt hb 1 ≠ 0xCD then .error .badHead
  else if byteAt hb 3 ≠ 0x00 then .error .badRsvd
  else .ok (byteAt hb 2)

/-- The tail check (R113, R64): bytes 2 and 3 only; the two checksum bytes are not examined (R115). -/
def trailerGood (tb : List Byte) : Bool := byteAt tb 2 == 0xDC && byteAt tb 3 == 0xBA

/-- `start` (R116): `BUSY <- 1`, `CNT <- 0`, `RXS <- HDR`; `seq` says which host sequence waits for the frame. -/
def State.startParse (s : State) (seq : HostSeq) : State :=
  { s with busy := true, cnt := 0, rxs := .hdr, seq := seq }

/-- `byte(b)` in `HDR` (R117). -/
def State.rxHeader (s : State) (b : Byte) : State × Option ParseEnd :=
  let t := { s with hb := s.hb.set s.cnt.toNat b }
  if s.cnt.toNat < 3 then ({ t with cnt := s.cnt + 1 }, none)
  else match headerCheck t.hb with
    | .error c => (t.finish c.errReg, some (.error c))
    | .ok l => ({ t with len := l, cnt := 0, rxs := if l = 0 then .trl else .pay }, none)

/-- `byte(b)` in `PAY` (R118). -/
def State.rxPayload (s : State) (b : Byte) : State × Option ParseEnd :=
  let t := { s with rxb := s.rxb.set s.cnt.toNat b }
  if s.cnt.toNat + 1 < s.len.toNat then ({ t with cnt := s.cnt + 1 }, none)
  else ({ t with cnt := 0, rxs := .trl }, none)

/-- `byte(b)` in `TRL` (R119): on a good tail the payload is de-obfuscated and the operation ends. -/
def State.rxTrailer (s : State) (b : Byte) : State × Option ParseEnd :=
  let t := { s with tb := s.tb.set s.cnt.toNat b }
  if s.cnt.toNat < 3 then ({ t with cnt := s.cnt + 1 }, none)
  else if trailerGood t.tb then
    let p := t.rxb.take t.len.toNat
    ((t.obf p).1.finish ErrReg.ok, some (.ok (t.obf p).2))
  else (t.finish Cause.badTail.errReg, some (.error .badTail))

/-- `byte(b)` (R117 to R119): the state after it, and how the reception ended if it did. In `IDLE` no byte is taken. -/
def State.rxByte (s : State) (b : Byte) : State × Option ParseEnd :=
  match s.rxs with
  | .idle => (s, none)
  | .hdr => s.rxHeader b
  | .pay => s.rxPayload b
  | .trl => s.rxTrailer b

/-- The cause of a timeout by stage (R120); none in `IDLE`. -/
def timeoutCause : RxStage → Option Cause
  | .idle => none
  | .hdr => some .inHdr
  | .pay => some .inPay
  | .trl => some .inTrl

/-- `FRAME.PARSE` as a function of every byte that arrives before the read times out (R113): how it ends, and what is left
in the stream (R121). The sequencer above is what runs; R122 says the two agree. -/
def parseFrame (c : Config) (q : List Byte) : ParseEnd × List Byte :=
  if q.length < 4 then (.error .inHdr, [])
  else match headerCheck (q.take 4) with
    | .error e => (.error e, q.drop 4)
    | .ok l =>
      let q1 := q.drop 4
      if q1.length < l.toNat then (.error .inPay, [])
      else
        let q2 := q1.drop l.toNat
        if q2.length < 4 then (.error .inTrl, [])
        else if trailerGood (q2.take 4) then (.ok (obfBytes c.key 0 (q1.take l.toNat)), q2.drop 4)
        else (.error .badTail, q2.drop 4)

end Sys2Proof.Machine
end

