-- ==== Sys2Proof/Machine/Sequences.lean ====
section
/-! DEFINITION. The host sequences (47_host_sequences.md) and the reception they wait for. A sequence runs on as long as
the bytes it needs have arrived; where they have not, the block waits with `BUSY = 1` and `seq` says what the host does when
the frame ends (log entries 7 and 8). -/

namespace Sys2Proof.Machine

/-- `XCV.SEND(cmd)` as a step of a sequence (R231): build, then append to `TXQ` in one write; `ERR` is as `FRAME.BUILD`
leaves it. -/
def State.sendFrame (s : State) (cmd : List Byte) : Except Cause State :=
  (s.frameBuild cmd).map fun p => { p.1.txWrite p.2 with err := ErrReg.ok }

/-- Send a command, then wait for a frame on behalf of `seq`; a command that cannot be framed ends the sequence. -/
def State.sendAndWait (s : State) (cmd : List Byte) (seq : HostSeq) : State :=
  match s.sendFrame cmd with
  | .ok t => t.startParse seq
  | .error c => s.raise c

/-- Attempt `k` of `DRV.IDENTIFY` (R236). -/
def State.identAttempt (s : State) (k : Nat) (next : AfterIdent) : State :=
  s.sendAndWait (cmdIdent s.cfg) (.identify k next)

/-- Block `k` of `SYNC.DOWNLOAD` (R241): `DRV.READ(128*k, 128)`. -/
def State.downloadBlock (s : State) (k : Nat) (buf fw : List Byte) : State :=
  s.sendAndWait (cmdRead s.cfg (BitVec.ofNat 16 (Config.block * k)) 128) (.download k buf fw)

/-- Block `k` of `SYNC.UPLOAD` (R242): `IMG.STORE(128*k, 128)`, then `DRV.WRITE` of it. -/
def State.uploadBlock (s : State) (k : Nat) : State :=
  match cmdWrite s.cfg (s.rdBytes (Config.block * k) Config.block) (BitVec.ofNat 16 (Config.block * k)) with
  | .ok cmd => s.sendAndWait cmd (.upload k)
  | .error c => s.raise c

/-- `DRV.RESET()` (R239): one frame, no reply is read. -/
def State.sendReset (s : State) : State := s.commit ((s.sendFrame (cmdReset s.cfg)).map fun t => (t, .done))

/-- How a driver read or write passes an error on (60_exceptions.md R265): a timeout becomes `ProtocolError(TIMEOUT)`, a
framing error stays. -/
def blockCause : Cause → Cause
  | .inHdr => .protoTimeout
  | .inPay => .protoTimeout
  | .inTrl => .protoTimeout
  | .inTx => .protoTimeout
  | c => c

/-- `DRV.READ` once its frame has ended (R237). -/
def readReply (length : Byte) : ParseEnd → Except Cause (List Byte)
  | .ok p => rspRead p length
  | .error c => .error (blockCause c)

/-- `DRV.WRITE` once its frame has ended (R238). -/
def writeReply (c : Config) (offset : Half) : ParseEnd → Except Cause Bool
  | .ok p => .ok (rspWrite c p offset)
  | .error e => .error (blockCause e)

/-- What follows a successful identify (R236, R241, R242). -/
def State.afterIdent (s : State) (fw : List Byte) : AfterIdent → State
  | .answer => s.succeed (.bytes fw)
  | .download => s.downloadBlock 0 [] fw
  | .upload => s.uploadBlock 0

/-- The last step of a download (R241): one `IMG.LOAD(0, buf)` replaces the image. -/
def State.finishDownload (s : State) (buf fw : List Byte) : State :=
  s.commit ((s.memWriteBytes 0 buf).map fun t => (t, .synced fw))

/-- What the host does when the frame it waits for has ended: the one place where a sequence goes on. Either it ends, with
an answer or raising, or it sends its next command and waits again. -/
def State.react (s : State) (seq : HostSeq) (e : ParseEnd) : State :=
  let s := { s with seq := .ret }
  match seq with
  | .ret =>
    match e with
    | .ok p => s.succeed (.bytes p)
    | .error c => s.raise c
  | .identify k next =>
    match e with
    | .ok p => s.afterIdent (rspIdent p) next
    | .error _ => if k < Config.identAttempts then s.identAttempt (k + 1) next else s.raise .identFailed
  | .read length => s.commit ((readReply length e).map fun d => (s, .bytes d))
  | .write offset => s.commit ((writeReply s.cfg offset e).map fun b => (s, .bool b))
  | .download k buf fw =>
    match readReply 128 e with
    | .error c => s.raise c
    | .ok d => if k < 63 then s.downloadBlock (k + 1) (buf ++ d) fw else s.finishDownload (buf ++ d) fw
  | .upload k =>
    match writeReply s.cfg (BitVec.ofNat 16 (Config.block * k)) e with
    | .error c => s.raise c
    | .ok false => s.raise .writeNak
    | .ok true => if k < 57 then s.uploadBlock (k + 1) else s.sendReset

/-- Hand the bytes `q` to the block (R12, 43 R116 to R119): while a frame is being received each byte goes to the
sequencer; once the block is idle the rest stays in `RXQ`. -/
def feed : List Byte → State → State
  | [], s => { s with rxq := [] }
  | b :: q, s =>
    if s.rxs = .idle then { s with rxq := b :: q }
    else match s.rxByte b with
      | (t, none) => feed q t
      | (t, some e) => feed q (t.react t.seq e)

/-- Take what `RXQ` already holds. -/
def State.drain (s : State) : State := feed s.rxq s

/-- The environment delivers bytes (R12): they join `RXQ`, and a waiting reception takes them. -/
def State.deliver (s : State) (bs : List Byte) : State := feed (s.rxq ++ bs) s

/-- The `timeout` event (43 R120): it ends the read in progress, and in `IDLE` does nothing. -/
def State.timeoutEvent (s : State) : State :=
  match timeoutCause s.rxs with
  | none => s
  | some c => ((s.finish c.errReg).react s.seq (.error c)).drain

/-- The host starts a sequence on an idle block and it runs as far as the bytes in `RXQ` carry it. -/
def runSequence (s : State) (first : State → State) : Host.Outcome State Fault Refusal :=
  issue s fun t => (first t).drain

/-- `FRAME.PARSE` (43 R113): `start` (R116), then the bytes that have arrived. -/
def execFrameParse (s : State) : Host.Outcome State Fault Refusal := runSequence s fun t => t.startParse .ret

/-- `XCV.RECV` (R232): `FRAME.PARSE`, its errors unchanged. -/
def execXcvRecv (s : State) : Host.Outcome State Fault Refusal := runSequence s fun t => t.startParse .ret

/-- `XCV.SEND` (R231). -/
def execXcvSend (cmd : List Byte) (s : State) : Host.Outcome State Fault Refusal :=
  issue s fun t => t.commit ((t.sendFrame cmd).map fun u => (u, .done))

/-- `DRV.IDENTIFY` (R236). -/
def execDrvIdentify (s : State) : Host.Outcome State Fault Refusal := runSequence s fun t => t.identAttempt 1 .answer

/-- `DRV.READ` (R237). -/
def execDrvRead (offset : Half) (length : Byte) (s : State) : Host.Outcome State Fault Refusal :=
  runSequence s fun t => t.sendAndWait (cmdRead t.cfg offset length) (.read length)

/-- `DRV.WRITE` (R238): a command too long is refused before anything is sent. -/
def execDrvWrite (data : List Byte) (offset : Half) (s : State) : Host.Outcome State Fault Refusal :=
  runSequence s fun t => match cmdWrite t.cfg data offset with
    | .ok cmd => t.sendAndWait cmd (.write offset)
    | .error c => t.raise c

/-- `DRV.RESET` (R239). -/
def execDrvReset (s : State) : Host.Outcome State Fault Refusal := issue s fun t => t.sendReset

/-- `SYNC.DOWNLOAD` (R241). -/
def execSyncDownload (s : State) : Host.Outcome State Fault Refusal := runSequence s fun t => t.identAttempt 1 .download

/-- `SYNC.UPLOAD` (R242). -/
def execSyncUpload (s : State) : Host.Outcome State Fault Refusal := runSequence s fun t => t.identAttempt 1 .upload

end Sys2Proof.Machine
end

