-- ==== Sys2Proof/Machine/Formats.lean ====
section
/-! DEFINITION. The format rows of the opcode table (30_encoding.md R60). No operation of the block has these names; the
model gives each the one effect the spec gives its bytes: a frame header or trailer is four bytes that arrive on the line
(log entry 10), a record of the image is read for what it says and nothing but the answer changes (log entry 11). -/

namespace Sys2Proof.Machine

/-- The four bytes of a valid header (R63, R61). -/
def headerBytes (length : Byte) : List Byte := [0xAB, 0xCD, length, 0x00]

/-- The four bytes of a valid trailer (R64, R61). -/
def trailerBytes (ck0 ck1 : Byte) : List Byte := [ck0, ck1, 0xDC, 0xBA]

/-- The sixteen bytes of a channel record (R68). -/
def recordBytes (freq offset : Word) (rxcode txcode codeFlag flagsA flagsB dtmfFlags step scrambler : Byte) : List Byte :=
  wordBytes freq ++ wordBytes offset ++ [rxcode, txcode, codeFlag, flagsA, flagsB, dtmfFlags, step, scrambler]

/-- What a settings field says (R78, 46 R202, R218, R219, R221). -/
def settingResult : SetContent → Result
  | .byteField _ v => .byte v
  | .logo1 line => .bytes (textOf Config.logoChars line)
  | .logo2 line => .bytes (textOf Config.logoChars line)
  | .password p => .bytes p
  | .unlock _ v => .byte v

/-- A record is read: the answer alone changes (R173 "Decode never writes"). -/
def State.show (s : State) (r : Result) : Host.Outcome State Fault Refusal := .next { s with out := r }

/-- `W-FRAME.header` (R63): the header arrives on the line. -/
def execWFrameHeader (length : Byte) (s : State) : Host.Outcome State Fault Refusal := .next (s.deliver (headerBytes length))

/-- `W-FRAME.trailer` (R64): the trailer arrives on the line. -/
def execWFrameTrailer (ck0 ck1 : Byte) (s : State) : Host.Outcome State Fault Refusal :=
  .next (s.deliver (trailerBytes ck0 ck1))

/-- `M-CHAN.record` (R68 to R75): the channel its sixteen bytes stand for (45 R151, R172). -/
def execMChanRecord (freq offset : Word) (rxcode txcode codeFlag flagsA flagsB dtmfFlags step scrambler : Byte)
    (s : State) : Host.Outcome State Fault Refusal :=
  s.show (.channel (channelOf s.cfg
    (recordBytes freq offset rxcode txcode codeFlag flagsA flagsB dtmfFlags step scrambler)))

/-- `M-NAME.record` (R76): the name it holds (46 R191). -/
def execMNameRecord (text : List Byte) (s : State) : Host.Outcome State Fault Refusal := s.show (.bytes (textOf 16 text))

/-- `M-FM.entry` (R77): the `u16`, raw (46 R200). -/
def execMFmEntry (value : Half) (s : State) : Host.Outcome State Fault Refusal := s.show (.half value)

/-- `M-SET.fields` (R78): the field's value, raw, a logo line as its string. DESIGN CHOICE (log entry 36): neither the name of
an unlock flag nor the length of a password is checked; the operations (46 R219, R221) check theirs. -/
def execMSetFields (c : SetContent) (s : State) : Host.Outcome State Fault Refusal := s.show (settingResult c)

end Sys2Proof.Machine
end

