-- ==== Sys2Proof/Syntax.lean ====
section
/-! DEFINITION. The instructions: one constructor per row of spec/opcode_table.json (30_encoding.md R81, R82, R60). -/

namespace Sys2Proof

/-- One constructor per row of the opcode table, operands in the order of the rule the row cites. -/
inductive Instr where
  /-- `OBF` (R90). -/
  | obf (s : List Byte)
  /-- `CRC16` (R100). -/
  | crc16 (s : List Byte)
  /-- `FRAME.BUILD` (R110). -/
  | frameBuild (cmd : List Byte)
  /-- `FRAME.PARSE` (R113). -/
  | frameParse
  /-- `CMD.IDENT` (R131). -/
  | cmdIdent
  /-- `RSP.IDENT` (R132). -/
  | rspIdent (r : List Byte)
  /-- `CMD.READ` (R133). -/
  | cmdRead (offset : Half) (length : Byte)
  /-- `RSP.READ` (R134). -/
  | rspRead (r : List Byte) (length : Byte)
  /-- `CMD.WRITE` (R136). -/
  | cmdWrite (data : List Byte) (offset : Half)
  /-- `RSP.WRITE` (R138). -/
  | rspWrite (r : List Byte) (offset : Half)
  /-- `CMD.RESET` (R139). -/
  | cmdReset
  /-- `CH.DECODE` (R172). -/
  | chDecode (n : Nat)
  /-- `CH.ENCODE` (R175). -/
  | chEncode (n : Nat) (ch : Channel)
  /-- `CH.ERASE` (R176). -/
  | chErase (n : Nat)
  /-- `CH.ISEMPTY` (R152). -/
  | chIsEmpty (n : Nat)
  /-- `TONE.DEC` (R156). -/
  | toneDec (type : BitVec 2) (code : Byte)
  /-- `TONE.ENC` (R157). -/
  | toneEnc (t : Tone)
  /-- `STEP.DEC` (R170). -/
  | stepDec (b : Byte)
  /-- `STEP.ENC` (R171). -/
  | stepEnc (v : StepVal)
  /-- `NAME.DECODE` (R191). -/
  | nameDecode (n : Nat)
  /-- `NAME.ENCODE` (R192). -/
  | nameEncode (n : Nat) (t : List Byte)
  /-- `FM.DECODE` (R200). -/
  | fmDecode (i : Nat)
  /-- `FM.ENCODE` (R201). -/
  | fmEncode (i : Nat) (v : Half)
  /-- `SET.GET` (R202). -/
  | setGet (f : FieldName)
  /-- `SET.PUT` (R203). -/
  | setPut (f : FieldName) (v : Byte)
  /-- `LOGO.DECODE` (R218). -/
  | logoDecode (k : Nat)
  /-- `LOGO.ENCODE` (R223). -/
  | logoEncode (k : Nat) (t : List Byte)
  /-- `PWD.GET` (R219). -/
  | pwdGet
  /-- `PWD.PUT` (R224). -/
  | pwdPut (p : List Byte)
  /-- `UNLOCK.GET` (R221). -/
  | unlockGet (g : FieldName)
  /-- `UNLOCK.PUT` (R225). -/
  | unlockPut (g : FieldName) (v : Byte)
  /-- `IMG.LOAD` (R240). -/
  | imgLoad (a : Nat) (s : List Byte)
  /-- `IMG.STORE` (R240). -/
  | imgStore (a : Nat) (n : Nat)
  /-- `DEOBF` (R93). -/
  | deobf (s : List Byte)
  /-- `XCV.SEND` (R231). -/
  | xcvSend (cmd : List Byte)
  /-- `XCV.RECV` (R232). -/
  | xcvRecv
  /-- `DRV.IDENTIFY` (R236). -/
  | drvIdentify
  /-- `DRV.READ` (R237). -/
  | drvRead (offset : Half) (length : Byte)
  /-- `DRV.WRITE` (R238). -/
  | drvWrite (data : List Byte) (offset : Half)
  /-- `DRV.RESET` (R239). -/
  | drvReset
  /-- `SYNC.DOWNLOAD` (R241). -/
  | syncDownload
  /-- `SYNC.UPLOAD` (R242). -/
  | syncUpload
  /-- `W-FRAME.header` (R63): a valid header, with its length byte. -/
  | wFrameHeader (length : Byte)
  /-- `W-FRAME.trailer` (R64): a valid trailer, with its two obfuscated checksum bytes. -/
  | wFrameTrailer (ck0 ck1 : Byte)
  /-- `M-CHAN.record` (R68): the sixteen bytes of a channel record by field. -/
  | mChanRecord (freq offset : Word) (rxcode txcode codeFlag flagsA flagsB dtmfFlags step scrambler : Byte)
  /-- `M-NAME.record` (R76). -/
  | mNameRecord (text : List Byte)
  /-- `M-FM.entry` (R77). -/
  | mFmEntry (value : Half)
  /-- `M-SET.fields` (R78). -/
  | mSetFields (c : SetContent)
  deriving DecidableEq, Repr, Inhabited

end Sys2Proof
end

