-- ==== Sys2Proof/WellFormed.lean ====
section
/-! DEFINITION. Which terms of `Instr` have an encoding (30_encoding.md R60). Every operand of an operation or a macro is
admitted (an operand outside an operation's domain is refused by the operation, 60_exceptions.md R256, not by the syntax);
a record format has the byte count its rule gives. -/

namespace Sys2Proof

/-- The byte counts of a settings field (30_encoding.md R78): a logo line is 16 bytes; the password's length is a
parameter, so any is admitted. -/
def SetContent.wellFormed : SetContent → Bool
  | .byteField _ _ => true
  | .logo1 line => line.length == 16
  | .logo2 line => line.length == 16
  | .password _ => true
  | .unlock _ _ => true

/-- A term that has an encoding: a name record is 16 bytes (R76), a logo line 16 bytes (R78). -/
def Instr.wellFormed : Instr → Bool
  | .obf _ => true
  | .crc16 _ => true
  | .frameBuild _ => true
  | .frameParse => true
  | .cmdIdent => true
  | .rspIdent _ => true
  | .cmdRead _ _ => true
  | .rspRead _ _ => true
  | .cmdWrite _ _ => true
  | .rspWrite _ _ => true
  | .cmdReset => true
  | .chDecode _ => true
  | .chEncode _ _ => true
  | .chErase _ => true
  | .chIsEmpty _ => true
  | .toneDec _ _ => true
  | .toneEnc _ => true
  | .stepDec _ => true
  | .stepEnc _ => true
  | .nameDecode _ => true
  | .nameEncode _ _ => true
  | .fmDecode _ => true
  | .fmEncode _ _ => true
  | .setGet _ => true
  | .setPut _ _ => true
  | .logoDecode _ => true
  | .logoEncode _ _ => true
  | .pwdGet => true
  | .pwdPut _ => true
  | .unlockGet _ => true
  | .unlockPut _ _ => true
  | .imgLoad _ _ => true
  | .imgStore _ _ => true
  | .deobf _ => true
  | .xcvSend _ => true
  | .xcvRecv => true
  | .drvIdentify => true
  | .drvRead _ _ => true
  | .drvWrite _ _ => true
  | .drvReset => true
  | .syncDownload => true
  | .syncUpload => true
  | .wFrameHeader _ => true
  | .wFrameTrailer _ _ => true
  | .mChanRecord _ _ _ _ _ _ _ _ _ _ => true
  | .mNameRecord text => text.length == 16
  | .mFmEntry _ => true
  | .mSetFields c => c.wellFormed

end Sys2Proof
end

