-- ==== Sys2Proof/Decode.lean ====
section
/-! DEFINITION. The decoder: from what stands at a port to an instruction (30_encoding.md R81 for the operations, R63, R64
and R68 to R78 for the formats), total and rejecting by name; after it the encoder, from the same tables. Operands come on
operand lines (log entry 6). -/

namespace Sys2Proof

open Sys2Proof.Machine (byteAt le16 wordAt halfBytes headerBytes trailerBytes recordBytes)

/-- Why an input is no instruction. -/
inductive DecodeError where
  /-- The `OPSEL` names no operation (R81). -/
  | badOpsel
  /-- Received bytes that are neither a header nor a trailer: payload or noise (R80). -/
  | notFramePart
  /-- A record input of the wrong byte count. -/
  | badRecord
  /-- A timeout is an event, not an instruction (43 section 3). -/
  | event
  /-- A handler line is no operation (R83). -/
  | handler
  deriving DecidableEq, Repr

/-- The operation map (R81). -/
def decodeOp (opsel : Byte) (a : Operands) : Option Instr :=
  match opsel.toNat with
  | 0x01 => some (.obf a.seq)
  | 0x02 => some (.crc16 a.seq)
  | 0x10 => some (.frameBuild a.seq)
  | 0x11 => some .frameParse
  | 0x20 => some .cmdIdent
  | 0x21 => some (.rspIdent a.seq)
  | 0x22 => some (.cmdRead a.half a.byte)
  | 0x23 => some (.rspRead a.seq a.byte)
  | 0x24 => some (.cmdWrite a.seq a.half)
  | 0x25 => some (.rspWrite a.seq a.half)
  | 0x26 => some .cmdReset
  | 0x30 => some (.chDecode a.num)
  | 0x31 => some (.chEncode a.num a.chan)
  | 0x32 => some (.chErase a.num)
  | 0x33 => some (.chIsEmpty a.num)
  | 0x34 => some (.toneDec a.toneType a.byte)
  | 0x35 => some (.toneEnc a.tone)
  | 0x36 => some (.stepDec a.byte)
  | 0x37 => some (.stepEnc a.step)
  | 0x40 => some (.nameDecode a.num)
  | 0x41 => some (.nameEncode a.num a.seq)
  | 0x42 => some (.fmDecode a.num)
  | 0x43 => some (.fmEncode a.num a.half)
  | 0x44 => some (.setGet a.name)
  | 0x45 => some (.setPut a.name a.byte)
  | 0x46 => some (.logoDecode a.num)
  | 0x47 => some (.logoEncode a.num a.seq)
  | 0x48 => some .pwdGet
  | 0x49 => some (.pwdPut a.seq)
  | 0x4A => some (.unlockGet a.name)
  | 0x4B => some (.unlockPut a.name a.byte)
  | 0x50 => some (.imgLoad a.num a.seq)
  | 0x51 => some (.imgStore a.num a.count)
  | _ => none

/-- The host sequences (R82). -/
def decodeCall (m : HostCall) (a : Operands) : Instr :=
  match m with
  | .deobf => .deobf a.seq
  | .xcvSend => .xcvSend a.seq
  | .xcvRecv => .xcvRecv
  | .drvIdentify => .drvIdentify
  | .drvRead => .drvRead a.half a.byte
  | .drvWrite => .drvWrite a.seq a.half
  | .drvReset => .drvReset
  | .syncDownload => .syncDownload
  | .syncUpload => .syncUpload

/-- A header by the pattern of R63, a trailer by the pattern of R64; no four bytes fit both (byte 3). -/
def decodeLine : List Byte → Option Instr
  | [b0, b1, b2, b3] =>
    if b0 = 0xAB ∧ b1 = 0xCD ∧ b3 = 0x00 then some (.wFrameHeader b2)
    else if b2 = 0xDC ∧ b3 = 0xBA then some (.wFrameTrailer b0 b1)
    else none
  | _ => none

/-- A one-byte field's content. -/
def decodeByte (mk : Byte → SetContent) : List Byte → Option Instr
  | [v] => some (.mSetFields (mk v))
  | _ => none

/-- The record formats (R68, R76, R77, R78). The port is the model's own (log entry 11), and so is that an unlock flag is read
without looking its name up in `UNLOCK_FLAGS` and a password without comparing its length with `PWD_LEN`: DESIGN CHOICE,
log entry 36. -/
def decodeRecord : RecordFmt → List Byte → Option Instr
  | .chan, bs =>
    if bs.length = 16 then
      some (.mChanRecord (wordAt bs 0) (wordAt bs 4) (byteAt bs 8) (byteAt bs 9) (byteAt bs 10) (byteAt bs 11)
        (byteAt bs 12) (byteAt bs 13) (byteAt bs 14) (byteAt bs 15))
    else none
  | .name, bs => if bs.length = 16 then some (.mNameRecord bs) else none
  | .fm, bs => if bs.length = 2 then some (.mFmEntry (le16 (byteAt bs 0) (byteAt bs 1))) else none
  | .set f, bs => decodeByte (.byteField f) bs
  | .logo1, bs => if bs.length = 16 then some (.mSetFields (.logo1 bs)) else none
  | .logo2, bs => if bs.length = 16 then some (.mSetFields (.logo2 bs)) else none
  | .password, bs => some (.mSetFields (.password bs))
  | .unlock g, bs => decodeByte (.unlock g) bs

/-- The decoder, total on every input. -/
def decode : Input → Except DecodeError Instr
  | .issue op a => match decodeOp op a with
    | some i => .ok i
    | none => .error .badOpsel
  | .call m a => .ok (decodeCall m a)
  | .line bs => match decodeLine bs with
    | some i => .ok i
    | none => .error .notFramePart
  | .record f bs => match decodeRecord f bs with
    | some i => .ok i
    | none => .error .badRecord
  | .timeout => .error .event
  | .onError _ _ => .error .handler

/-- How the bytes of a settings field stand in the image (R78). -/
def encodeSet : SetContent → Input
  | .byteField f v => .record (.set f) [v]
  | .logo1 line => .record .logo1 line
  | .logo2 line => .record .logo2 line
  | .password p => .record .password p
  | .unlock g v => .record (.unlock g) [v]

/-- The encoder: the `OPSEL` of R81 with the operand lines the operation names, the host sequence of R82, or the bytes of
the format. -/
def encode : Instr → Input
  | .obf s => .issue 0x01 { seq := s }
  | .crc16 s => .issue 0x02 { seq := s }
  | .frameBuild cmd => .issue 0x10 { seq := cmd }
  | .frameParse => .issue 0x11 {}
  | .cmdIdent => .issue 0x20 {}
  | .rspIdent r => .issue 0x21 { seq := r }
  | .cmdRead offset length => .issue 0x22 { half := offset, byte := length }
  | .rspRead r length => .issue 0x23 { seq := r, byte := length }
  | .cmdWrite data offset => .issue 0x24 { seq := data, half := offset }
  | .rspWrite r offset => .issue 0x25 { seq := r, half := offset }
  | .cmdReset => .issue 0x26 {}
  | .chDecode n => .issue 0x30 { num := n }
  | .chEncode n ch => .issue 0x31 { num := n, chan := ch }
  | .chErase n => .issue 0x32 { num := n }
  | .chIsEmpty n => .issue 0x33 { num := n }
  | .toneDec type code => .issue 0x34 { toneType := type, byte := code }
  | .toneEnc t => .issue 0x35 { tone := t }
  | .stepDec b => .issue 0x36 { byte := b }
  | .stepEnc v => .issue 0x37 { step := v }
  | .nameDecode n => .issue 0x40 { num := n }
  | .nameEncode n t => .issue 0x41 { num := n, seq := t }
  | .fmDecode i => .issue 0x42 { num := i }
  | .fmEncode i v => .issue 0x43 { num := i, half := v }
  | .setGet f => .issue 0x44 { name := f }
  | .setPut f v => .issue 0x45 { name := f, byte := v }
  | .logoDecode k => .issue 0x46 { num := k }
  | .logoEncode k t => .issue 0x47 { num := k, seq := t }
  | .pwdGet => .issue 0x48 {}
  | .pwdPut p => .issue 0x49 { seq := p }
  | .unlockGet g => .issue 0x4A { name := g }
  | .unlockPut g v => .issue 0x4B { name := g, byte := v }
  | .imgLoad a s => .issue 0x50 { num := a, seq := s }
  | .imgStore a n => .issue 0x51 { num := a, count := n }
  | .deobf s => .call .deobf { seq := s }
  | .xcvSend cmd => .call .xcvSend { seq := cmd }
  | .xcvRecv => .call .xcvRecv {}
  | .drvIdentify => .call .drvIdentify {}
  | .drvRead offset length => .call .drvRead { half := offset, byte := length }
  | .drvWrite data offset => .call .drvWrite { seq := data, half := offset }
  | .drvReset => .call .drvReset {}
  | .syncDownload => .call .syncDownload {}
  | .syncUpload => .call .syncUpload {}
  | .wFrameHeader length => .line (headerBytes length)
  | .wFrameTrailer ck0 ck1 => .line (trailerBytes ck0 ck1)
  | .mChanRecord freq offset rxcode txcode codeFlag flagsA flagsB dtmfFlags step scrambler =>
    .record .chan (recordBytes freq offset rxcode txcode codeFlag flagsA flagsB dtmfFlags step scrambler)
  | .mNameRecord text => .record .name text
  | .mFmEntry value => .record .fm (halfBytes value)
  | .mSetFields c => encodeSet c

/-- The low `n` bytes of a number, least significant first (20_memory.md R41). -/
def lowBytes : Nat → Nat → List Byte
  | 0, _ => []
  | n + 1, w => BitVec.ofNat 8 w :: lowBytes n (w / 256)

/-- The input that the bits of an opcode-table row stand for: an 8-bit row is an `OPSEL` with every operand line zero; a
32-bit row is four bytes of the line read as one big-endian number (R63, R64), so its first byte is bits 31 to 24; a 16-bit
row is an FM entry, little-endian (R77); a 128-bit row is a channel record, first byte lowest (R68). -/
def tableInput (nbits w : Nat) : Input :=
  if nbits = 32 then .line (lowBytes 4 w).reverse
  else if nbits = 16 then .record .fm (lowBytes 2 w)
  else if nbits = 128 then .record .chan (lowBytes 16 w)
  else .issue (BitVec.ofNat 8 w) {}

/-- The instruction the decoder reads from a row's bits. -/
def decodeTableWord (nbits w : Nat) : Option Instr :=
  match decode (tableInput nbits w) with
  | .ok i => some i
  | .error _ => none

end Sys2Proof
end

