-- ==== Sys2Proof/Machine/Control.lean ====
section
/-! DEFINITION. What happens at the ports apart from instructions: an `OPSEL` that names no operation, bytes and timeouts
from the line. -/

namespace Sys2Proof.Machine

/-- An issue whose `OPSEL` is not in the operation map (30_encoding.md R81): `OperandError(BAD_OP)`, nothing else. -/
def issueUnknown (s : State) : Host.Outcome State Fault Refusal := issue s fun t => t.raise .badOp

/-- An input that is no instruction: an unknown `OPSEL`, received bytes (10_state.md R12), a timeout (43_framing.md R120);
a record of the wrong size is refused by name (log entry 21); a handler line that comes up by itself does nothing (R83). -/
def noInstr (inp : Input) (s : State) : Host.Outcome State Fault Refusal :=
  match inp with
  | .issue _ _ => issueUnknown s
  | .call _ _ => issueUnknown s
  | .line bs => .next (s.deliver bs)
  | .record f _ => .refused (.malformedRecord f)
  | .timeout => .next s.timeoutEvent
  | .onError _ _ => .next s

end Sys2Proof.Machine
end

