-- ==== Sys2Proof/Machine/Settings.lean ====
section
/-! DEFINITION. Channel names, the FM table and the device settings (46_names_fm_settings.md), and the port to the image
(47 R240). They read and write `IMG` and `ERR` and nothing else. -/

namespace Sys2Proof.Machine

/-- The name record as written (46 R192): text, spaces to `NAME_PAD_WIDTH`, `0xFF` to 16. -/
def nameRecord (c : Config) (t : List Byte) : List Byte :=
  t ++ rep 0x20 (c.namePadWidth - t.length) ++ rep 0xFF (16 - c.namePadWidth)

/-- `NAME.DECODE(n)` (R191). -/
def State.nameDecode (s : State) (n : Nat) : Except Cause (List Byte) := do
  let slot ← nameSlot n
  let r ← s.memReadBytes (nameAddr s.cfg slot) 16
  return textOf 16 r

/-- `NAME.ENCODE(n, t)` (R192): number, then length, then characters; then one write of the whole record. -/
def State.nameEncode (s : State) (n : Nat) (t : List Byte) : Except Cause State := do
  let slot ← nameSlot n
  checkText t s.cfg.namePadWidth
  s.memWriteBytes (nameAddr s.cfg slot) (nameRecord s.cfg t)

/-- `LOGO.DECODE(k)` (R218): the first 12 bytes of the line, read as a name. -/
def State.logoDecode (s : State) (k : Nat) : Except Cause (List Byte) := do
  let a ← logoAddr s.cfg k
  let r ← s.memReadBytes a 16
  return textOf Config.logoChars r

/-- `LOGO.ENCODE(k, t)` (R223): bytes 0 to 11 of the line only. So writing back what `LOGO.DECODE` read can change them (an
erased line becomes 12 spaces), where R226 says that it changes nothing: R223's pseudocode runs (DEDUCED, log entry 31). -/
def State.logoEncode (s : State) (k : Nat) (t : List Byte) : Except Cause State := do
  let a ← logoAddr s.cfg k
  checkText t Config.logoChars
  s.memWriteBytes a (t ++ rep 0x20 (Config.logoChars - t.length))

/-- `PWD.PUT(p)` (R224). -/
def State.pwdPut (s : State) (p : List Byte) : Except Cause State :=
  if p.length ≠ s.cfg.pwdLen then .error .badName else s.memWriteBytes s.cfg.settingsMap.password p

/-- `NAME.DECODE` (R191). -/
def execNameDecode (n : Nat) (s : State) : Host.Outcome State Fault Refusal :=
  issue s fun t => t.commit ((t.nameDecode n).map fun r => (t, .bytes r))

/-- `NAME.ENCODE` (R192). -/
def execNameEncode (n : Nat) (txt : List Byte) (s : State) : Host.Outcome State Fault Refusal :=
  issue s fun t => t.commit ((t.nameEncode n txt).map fun u => (u, .done))

/-- `FM.DECODE` (R200): the entry, raw. -/
def execFmDecode (i : Nat) (s : State) : Host.Outcome State Fault Refusal :=
  issue s fun t => t.commit ((do t.memReadHalf (← fmAddr t.cfg i)).map fun v => (t, .half v))

/-- `FM.ENCODE` (R201). -/
def execFmEncode (i : Nat) (v : Half) (s : State) : Host.Outcome State Fault Refusal :=
  issue s fun t => t.commit ((do t.memWriteBytes (← fmAddr t.cfg i) (halfBytes v)).map fun u => (u, .done))

/-- `SET.GET` (R202, R204 to R217, R220): the byte, raw. -/
def execSetGet (f : FieldName) (s : State) : Host.Outcome State Fault Refusal :=
  issue s fun t => t.commit ((do t.memReadByte (← fieldAddr t.cfg f)).map fun v => (t, .byte v))

/-- `SET.PUT` (R203): no value is refused. -/
def execSetPut (f : FieldName) (v : Byte) (s : State) : Host.Outcome State Fault Refusal :=
  issue s fun t => t.commit ((do t.memWriteBytes (← fieldAddr t.cfg f) [v]).map fun u => (u, .done))

/-- `LOGO.DECODE` (R218). -/
def execLogoDecode (k : Nat) (s : State) : Host.Outcome State Fault Refusal :=
  issue s fun t => t.commit ((t.logoDecode k).map fun r => (t, .bytes r))

/-- `LOGO.ENCODE` (R223). -/
def execLogoEncode (k : Nat) (txt : List Byte) (s : State) : Host.Outcome State Fault Refusal :=
  issue s fun t => t.commit ((t.logoEncode k txt).map fun u => (u, .done))

/-- `PWD.GET` (R219): the bytes, raw. -/
def execPwdGet (s : State) : Host.Outcome State Fault Refusal :=
  issue s fun t => t.commit ((t.memReadBytes t.cfg.settingsMap.password t.cfg.pwdLen).map fun r => (t, .bytes r))

/-- `PWD.PUT` (R224). -/
def execPwdPut (p : List Byte) (s : State) : Host.Outcome State Fault Refusal :=
  issue s fun t => t.commit ((t.pwdPut p).map fun u => (u, .done))

/-- `UNLOCK.GET` (R221): the byte, raw. -/
def execUnlockGet (g : FieldName) (s : State) : Host.Outcome State Fault Refusal :=
  issue s fun t => t.commit ((do t.memReadByte (← flagAddr t.cfg g)).map fun v => (t, .byte v))

/-- `UNLOCK.PUT` (R225): no value is refused. -/
def execUnlockPut (g : FieldName) (v : Byte) (s : State) : Host.Outcome State Fault Refusal :=
  issue s fun t => t.commit ((do t.memWriteBytes (← flagAddr t.cfg g) [v]).map fun u => (u, .done))

/-- `IMG.LOAD(a, s)` (47 R240). -/
def execImgLoad (a : Nat) (bs : List Byte) (s : State) : Host.Outcome State Fault Refusal :=
  issue s fun t => t.commit ((t.memWriteBytes a bs).map fun u => (u, .done))

/-- `IMG.STORE(a, n)` (47 R240). -/
def execImgStore (a n : Nat) (s : State) : Host.Outcome State Fault Refusal :=
  issue s fun t => t.commit ((t.memReadBytes a n).map fun r => (t, .bytes r))

end Sys2Proof.Machine
end

