-- ==== Sys2Proof/Machine/Dispatch.lean ====
section
/-! DEFINITION. One arm per instruction: each calls its own meaning. -/

namespace Sys2Proof.Machine

def exec (i : Instr) (s : State) : Host.Outcome State Fault Refusal :=
  match i with
  | .obf bs => Sys2Proof.Machine.execObf bs s
  | .crc16 bs => Sys2Proof.Machine.execCrc16 bs s
  | .frameBuild cmd => Sys2Proof.Machine.execFrameBuild cmd s
  | .frameParse => Sys2Proof.Machine.execFrameParse s
  | .cmdIdent => Sys2Proof.Machine.execCmdIdent s
  | .rspIdent r => Sys2Proof.Machine.execRspIdent r s
  | .cmdRead offset length => Sys2Proof.Machine.execCmdRead offset length s
  | .rspRead r length => Sys2Proof.Machine.execRspRead r length s
  | .cmdWrite data offset => Sys2Proof.Machine.execCmdWrite data offset s
  | .rspWrite r offset => Sys2Proof.Machine.execRspWrite r offset s
  | .cmdReset => Sys2Proof.Machine.execCmdReset s
  | .chDecode n => Sys2Proof.Machine.execChDecode n s
  | .chEncode n ch => Sys2Proof.Machine.execChEncode n ch s
  | .chErase n => Sys2Proof.Machine.execChErase n s
  | .chIsEmpty n => Sys2Proof.Machine.execChIsEmpty n s
  | .toneDec type code => Sys2Proof.Machine.execToneDec type code s
  | .toneEnc t => Sys2Proof.Machine.execToneEnc t s
  | .stepDec b => Sys2Proof.Machine.execStepDec b s
  | .stepEnc v => Sys2Proof.Machine.execStepEnc v s
  | .nameDecode n => Sys2Proof.Machine.execNameDecode n s
  | .nameEncode n t => Sys2Proof.Machine.execNameEncode n t s
  | .fmDecode k => Sys2Proof.Machine.execFmDecode k s
  | .fmEncode k v => Sys2Proof.Machine.execFmEncode k v s
  | .setGet f => Sys2Proof.Machine.execSetGet f s
  | .setPut f v => Sys2Proof.Machine.execSetPut f v s
  | .logoDecode k => Sys2Proof.Machine.execLogoDecode k s
  | .logoEncode k t => Sys2Proof.Machine.execLogoEncode k t s
  | .pwdGet => Sys2Proof.Machine.execPwdGet s
  | .pwdPut p => Sys2Proof.Machine.execPwdPut p s
  | .unlockGet g => Sys2Proof.Machine.execUnlockGet g s
  | .unlockPut g v => Sys2Proof.Machine.execUnlockPut g v s
  | .imgLoad a bs => Sys2Proof.Machine.execImgLoad a bs s
  | .imgStore a n => Sys2Proof.Machine.execImgStore a n s
  | .deobf bs => Sys2Proof.Machine.execDeobf bs s
  | .xcvSend cmd => Sys2Proof.Machine.execXcvSend cmd s
  | .xcvRecv => Sys2Proof.Machine.execXcvRecv s
  | .drvIdentify => Sys2Proof.Machine.execDrvIdentify s
  | .drvRead offset length => Sys2Proof.Machine.execDrvRead offset length s
  | .drvWrite data offset => Sys2Proof.Machine.execDrvWrite data offset s
  | .drvReset => Sys2Proof.Machine.execDrvReset s
  | .syncDownload => Sys2Proof.Machine.execSyncDownload s
  | .syncUpload => Sys2Proof.Machine.execSyncUpload s
  | .wFrameHeader length => Sys2Proof.Machine.execWFrameHeader length s
  | .wFrameTrailer ck0 ck1 => Sys2Proof.Machine.execWFrameTrailer ck0 ck1 s
  | .mChanRecord freq offset rxcode txcode codeFlag flagsA flagsB dtmfFlags step scrambler => Sys2Proof.Machine.execMChanRecord freq offset rxcode txcode codeFlag flagsA flagsB dtmfFlags step scrambler s
  | .mNameRecord text => Sys2Proof.Machine.execMNameRecord text s
  | .mFmEntry value => Sys2Proof.Machine.execMFmEntry value s
  | .mSetFields c => Sys2Proof.Machine.execMSetFields c s

end Sys2Proof.Machine
end

