-- ==== Sys2Proof/Machine/Program.lean ====
section
/-! DEFINITION. How a program of the host ends (47_host_sequences.md R246, 30_encoding.md R83): after its last operation, or
at the first operation that raises with no handler. The block itself knows nothing of it (60_exceptions.md R260, R261); the
host does not issue what is left of its program (log entry 35). -/

namespace Sys2Proof.Machine

/-- The number of an error kind in `ERR.KIND` (60_exceptions.md R251). -/
def errorKindCode : ErrorKind → BitVec 3
  | .framing => 1
  | .protocol => 2
  | .timeout => 3
  | .encoding => 4
  | .operand => 5

/-- A line of the program that issues an operation or a macro (R81, R82). -/
def issuesOp : Input → Bool
  | .issue _ _ => true
  | .call _ _ => true
  | .line _ => false
  | .record _ _ => false
  | .timeout => false
  | .onError _ _ => false

/-- A line of the program, an operation or a handler, as against what the environment does (log entry 5). -/
def inProgram : Input → Bool
  | .issue _ _ => true
  | .call _ _ => true
  | .line _ => false
  | .record _ _ => false
  | .timeout => false
  | .onError _ _ => true

/-- The program handles `c` with `continue` (R83): among the handlers that come before its next operation, the first that
names the kind of `c` says so. -/
def handled (c : Cause) : List Input → Bool
  | [] => false
  | .issue _ _ :: _ => false
  | .call _ _ :: _ => false
  | .line _ :: more => handled c more
  | .record _ _ :: more => handled c more
  | .timeout :: more => handled c more
  | .onError k a :: more => if errorKindCode k = c.kind then a == .goOn else handled c more

/-- What is still to come once an operation has raised `c` (R246, R83): all of it where the program handles `c`, and else
what the environment does, with no line of the program left. -/
def afterRaise (c : Cause) (more : List Input) : List Input :=
  if handled c more then more else more.filter fun inp => !inProgram inp

/-- The cause that an operation of the program raised in a step from `s` to `t` with the input `inp`: the answer to an
operation issued then, a refused one (R288) among them, or to the reception that ended. -/
def raisedIn (inp : Input) (s t : State) : Option Cause :=
  match t.out with
  | .error c =>
    if (issuesOp inp && s.busy) || ((issuesOp inp || decide (s.rxs ≠ .idle)) && decide (t.rxs = .idle)) then some c else none
  | _ => none

/-- The host after a step from `s` to `t` with the input `inp`: its program goes on or has ended (R246). -/
def hostAfter (inp : Input) (s t : State) : State :=
  match s.inq with
  | [] => t
  | _ :: _ =>
    match raisedIn inp s t with
    | some c => { t with inq := afterRaise c t.inq }
    | none => t

/-- The same of the outcome of a step. -/
def hostRuns (inp : Input) (s : State) : Host.Outcome State Fault Refusal → Host.Outcome State Fault Refusal
  | .next t => .next (hostAfter inp s t)
  | .fault r => .fault r
  | .refused r => .refused r

end Sys2Proof.Machine
end

