-- ==== Sys2Proof/Machine/Step.lean ====
section
/-! DEFINITION. One step: the next input is taken; an instruction runs, an event happens; an operation that raises with no
handler ends the program. -/

namespace Sys2Proof.Machine

/-- One step of the machine (log entry 5): with nothing left to do it stays as it is (70_reset_and_hazards.md R295, 93
section 1.3 for a reception that waits). Where the step ends an operation by a raise, the program ends too unless it handles
the error (47_host_sequences.md R246, log entry 35). -/
def step (s : State) : Host.Outcome State Fault Refusal :=
  match s.inq with
  | [] => .next s
  | inp :: rest =>
    hostRuns inp { s with inq := rest } <|
      match decode inp with
      | .ok i => exec i { s with inq := rest }
      | .error _ => noInstr inp { s with inq := rest }

/-- Put an instruction of the opcode table where `step` takes its next input. -/
def State.withFetchWord (s : State) (nbits w : Nat) : State := { s with inq := tableInput nbits w :: s.inq }

end Sys2Proof.Machine
end

