-- ==== Sys2Proof/Machine/Params.lean ====
section
/-! DEFINITION. When the parameters are well formed (70_reset_and_hazards.md R282): a premise of the laws, never checked by
the block. -/

namespace Sys2Proof.Machine

/-- A descriptor lies inside its byte (00_scope.md R8). -/
abbrev FieldFits (f : FieldDesc) : Prop := f.shift + f.width ≤ 8

/-- Two descriptors share no bit (30_encoding.md R72, R73). -/
abbrev FieldsApart (f g : FieldDesc) : Prop :=
  f.byte ≠ g.byte ∨ f.shift + f.width ≤ g.shift ∨ g.shift + g.width ≤ f.shift

/-- A descriptor of bytes 11 and 12 with its required width (R72). -/
abbrev FlagDesc (f : FieldDesc) (width : Nat) : Prop := (f.byte = 11 ∨ f.byte = 12) ∧ f.width = width ∧ FieldFits f

/-- The open descriptors of bytes 11 to 13. -/
def flagDescs (c : Config) : List FieldDesc :=
  [c.fDuplex, c.fAm, c.fBw, c.fRev, c.fPower, c.fBclo, c.fPttid, c.fDtmfdec]

/-- Every descriptor of the record (R69, R72 to R75). -/
def allDescs (c : Config) : List FieldDesc := [fRxType, fTxType] ++ flagDescs c ++ [fStep, c.fScr]

/-- The assigned codes of the duplex field (45 R162). -/
abbrev dupCodes (c : Config) : List Nat := [c.dupNone, c.dupPlus, c.dupMinus]

/-- The assigned codes of the power field (45 R164). -/
abbrev pwrCodes (c : Config) : List Nat := [c.pwrLow, c.pwrMed, c.pwrHigh]

/-- The field descriptors and codes are well formed (R72, R73, R75; 00_scope.md R7). -/
abbrev WfFields (c : Config) : Prop :=
  FlagDesc c.fDuplex 2 ∧ FlagDesc c.fAm 1 ∧ FlagDesc c.fBw 1 ∧ FlagDesc c.fRev 1 ∧ FlagDesc c.fPower 2 ∧
  FlagDesc c.fBclo 1 ∧ (c.fPttid.byte = 13 ∧ c.fPttid.width = 2 ∧ FieldFits c.fPttid) ∧
  (c.fDtmfdec.byte = 13 ∧ c.fDtmfdec.width = 1 ∧ FieldFits c.fDtmfdec) ∧
  (c.fScr.byte = 15 ∧ 1 ≤ c.fScr.width ∧ FieldFits c.fScr) ∧ c.scrMax < 2 ^ c.fScr.width ∧
  (flagDescs c).Pairwise FieldsApart ∧
  (∀ k ∈ dupCodes c, k < 2 ^ c.fDuplex.width) ∧ (dupCodes c).Nodup ∧
  (∀ k ∈ pwrCodes c, k < 2 ^ c.fPower.width) ∧ (pwrCodes c).Nodup

/-- The tables are well formed (45_channel_record.md R155, R170; 00_scope.md R7). -/
abbrev WfTables (c : Config) : Prop :=
  c.ctcss.Nodup ∧ c.dcs.length ≤ 256 ∧ c.dcs.Nodup ∧ c.step.Nodup

/-- The wire parameters are well formed (00_scope.md R7). -/
abbrev WfWire (c : Config) : Prop :=
  c.readPrefix.length + c.readPad.length + 7 ≤ 255 ∧ c.wpLen + 8 ≤ 255 ∧
  c.ackOpcPos ≠ c.ackOffLoPos ∧ c.ackOpcPos ≠ c.ackOffHiPos ∧ c.ackOffLoPos ≠ c.ackOffHiPos

/-- The regions of the address map, start and size (20_memory.md R47). -/
def mapRegions (c : Config) : List (Nat × Nat) :=
  [(c.chBase, 16 * Config.chSlots), (c.nameBase, 16 * Config.nameSlots), (c.fmBase, 2 * Config.fmSlots)] ++
  settingFields.map (fun f => (settingAddr c.settingsMap f, 1)) ++
  [(c.settingsMap.logo1, 16), (c.settingsMap.logo2, 16), (c.settingsMap.password, c.pwdLen)] ++
  c.unlockFlags.map fun p => (p.2, 1)

/-- Two regions do not overlap (R47). -/
abbrev RegionsApart (r q : Nat × Nat) : Prop := r.1 + r.2 ≤ q.1 ∨ q.1 + q.2 ≤ r.1

/-- The address map is well formed (R47): every region inside the image, no two overlapping; the password holds a byte (R7). -/
abbrev WfMap (c : Config) : Prop :=
  (∀ r ∈ mapRegions c, r.1 + r.2 ≤ Config.imgSize) ∧ (mapRegions c).Pairwise RegionsApart ∧ 1 ≤ c.pwdLen

/-- The parameters are well formed (R282). -/
abbrev WfParams (c : Config) : Prop := WfWire c ∧ WfFields c ∧ WfTables c ∧ WfMap c

/-- One half of a canonical record's tones (45 R178, item 2). -/
def canonicalTone (c : Config) (type : Nat) (code : Nat) : Bool :=
  match type with
  | 0 => code == 0
  | 1 => decide (code < Config.ctcssLen)
  | _ => decide (code < c.dcs.length)

/-- A canonical record (45 R178). -/
def canonicalRecord (c : Config) (r : List Byte) : Bool :=
  r == erasedRecord ||
  (!emptyFreq (wordAt r 0) &&
    canonicalTone c (getf r fRxType).toNat (byteAt r 8).toNat &&
    canonicalTone c (getf r fTxType).toNat (byteAt r 9).toNat &&
    decide ((getf r fStep).toNat < c.step.length) &&
    ((wordAt r 4 == 0) == ((getf r c.fDuplex).toNat == c.dupNone)) &&
    decide ((getf r c.fScr).toNat ≤ c.scrMax))

end Sys2Proof.Machine
end

