-- ==== Sys2Proof/Safety.lean ====
section
/-! DEFINITION. The terms the statements use: how an operation leaves the rest of the state alone, the invariants of the
machine, and forms of the rules that do not go through the meanings. -/

namespace Sys2Proof.Machine

/-- The receive buffers have their sizes (10_state.md R10). -/
abbrev State.Buffers (s : State) : Prop := s.hb.length = 4 ∧ s.tb.length = 4 ∧ s.rxb.length = 255

/-- `s` after an operation that returned `r` and changed nothing else (10_state.md R20, R25). -/
def State.answered (s : State) (r : Result) : State := { s with err := ⟨0, 0⟩, out := r }

/-- `s` after an operation that raised the kind and sub-code `k`, `i` (60_exceptions.md R250), where it was not busy
before; `c` is the same cause at the answer port. -/
def State.failed (s : State) (k : BitVec 3) (i : BitVec 8) (c : Cause) : State :=
  { s with err := ⟨k, i⟩, rxs := .idle, cnt := 0, out := .error c }

/-- `t` is `s` but for the image, `ERR` (now OK) and the answer (now `r`). -/
def State.StoredFrom (t s : State) (r : Result) : Prop := t = { s with img := t.img, err := ⟨0, 0⟩, out := r }

/-- Every image byte of `t` is that of `bs` at its place from `a` on, and elsewhere that of `s` (20_memory.md R45). -/
def State.BytesFrom (t s : State) (a : Nat) (bs : List Byte) : Prop :=
  ∀ x, t.rd x = if a ≤ x ∧ x < a + bs.length then byteAt bs (x - a) else s.rd x

/-- `t` is `s` after an exchange with the line that has ended: `sent` went out, `left` is what remains to be read, `ERR` is
`e` and the answer `r`; of the rest only the working registers, dead between operations (10_state.md R32), may differ. -/
def State.Ended (t s : State) (sent left : List Byte) (e : ErrReg) (r : Result) : Prop :=
  t = { s with crc := t.crc, ki := t.ki, len := t.len, hb := t.hb, tb := t.tb, rxb := t.rxb, err := e, rxs := .idle,
               cnt := 0, busy := false, seq := .ret, txq := s.txq ++ sent, rxq := left, out := r }

/-- As `State.Ended`, but the image of `t` is not said. -/
def State.EndedStoring (t s : State) (sent left : List Byte) (e : ErrReg) (r : Result) : Prop :=
  t = { s with img := t.img, crc := t.crc, ki := t.ki, len := t.len, hb := t.hb, tb := t.tb, rxb := t.rxb, err := e,
               rxs := .idle, cnt := 0, busy := false, seq := .ret, txq := s.txq ++ sent, rxq := left, out := r }

/-- The operation `i` is selected by the code `op` of the operation map (30_encoding.md R81): its encoding decodes to it. -/
def OpselIs (op : Byte) (i : Instr) : Prop := ∃ a, encode i = .issue op a ∧ decode (.issue op a) = .ok i

/-- The bytes of a frame around an obfuscated payload and any two checksum bytes (30_encoding.md R61). -/
def wireFrame (pl : List Byte) (ck0 ck1 : Byte) : List Byte :=
  [0xAB, 0xCD, BitVec.ofNat 8 pl.length, 0x00] ++ pl ++ [ck0, ck1, 0xDC, 0xBA]

/-- `o` is `bs` under the repeating key (41_obfuscation.md R90): byte `i` meets `KEY[i mod 16]`. -/
def XorsKey (c : Config) (bs o : List Byte) : Prop :=
  o.length = bs.length ∧ ∀ i, i < bs.length → byteAt o i = byteAt bs i ^^^ byteAt c.key (i % 16)

/-- Four header bytes that some check refuses (43_framing.md R114), with the kind's sub-code and cause: the magic is checked
before the reserved byte. -/
def headerFault (b0 b1 b3 : Byte) : Option (BitVec 8 × Cause) :=
  if b0 ≠ 0xAB ∨ b1 ≠ 0xCD then some (1, .badHead) else if b3 ≠ 0x00 then some (2, .badRsvd) else none

/-- The bytes `bs` make a reception end with `FramingError`, sub-code `i` and cause `c`, at their last byte (43_framing.md
R114, R121): four bytes that are no valid header, or a whole frame but for a wrong tail. -/
def BadReply (bs : List Byte) (i : BitVec 8) (c : Cause) : Prop :=
  (∃ b0 b1 b2 b3, bs = [b0, b1, b2, b3] ∧ headerFault b0 b1 b3 = some (i, c)) ∨
  (i = 3 ∧ c = .badTail ∧ ∃ p t0 t1 t2 t3, p.length ≤ 255 ∧ (t2 ≠ 0xDC ∨ t3 ≠ 0xBA) ∧
    bs = [0xAB, 0xCD, BitVec.ofNat 8 p.length, 0x00] ++ p ++ [t0, t1, t2, t3])

/-- The bytes `bs` end no reception: a header or a frame that is cut short (43_framing.md R113). -/
def Unfinished (bs : List Byte) : Prop :=
  bs.length < 4 ∨ ∃ l p, bs = [0xAB, 0xCD, l, 0x00] ++ p ∧ p.length < l.toNat + 4

/-- What comes in makes one attempt of `DRV.IDENTIFY` fail (47 R236): no reply, a reply cut short by the timeout, or a
malformed reply. -/
def FailedAttempt : List Input → Prop
  | [.timeout] => True
  | [.line bs, .timeout] => Unfinished bs
  | [.line bs] => ∃ i c, BadReply bs i c
  | _ => False

/-- In a step from `s` that ran to `u`, an operation of the program raised `c` (47 R246, 30 R83): the one the input issued
(refused, where the block was busy), or the one whose reception ended. -/
def RaisedBy (inp : Input) (s u : State) (c : Cause) : Prop :=
  u.out = .error c ∧
  ((((∃ op a, inp = .issue op a) ∨ ∃ m a, inp = .call m a) ∧ (s.busy = true ∨ u.rxs = .idle)) ∨
    (s.rxs ≠ .idle ∧ u.rxs = .idle))

/-- The program handles `c` with `continue` (R83): before its next operation comes `on E: continue` with the kind of `c`, and
no earlier handler with that kind. -/
def HandledBy (c : Cause) (more : List Input) : Prop :=
  ∃ pre k post, more = pre ++ .onError k .goOn :: post ∧ errorKindCode k = c.kind ∧
    ∀ x ∈ pre, (∀ op a, x ≠ .issue op a) ∧ (∀ m a, x ≠ .call m a) ∧
      ∀ k' act, x = .onError k' act → errorKindCode k' ≠ c.kind

/-- The frame that carries `cmd` is `f`: what `FRAME.BUILD` answers on an idle block with the parameters of `s`. -/
def FrameOf (s : State) (cmd f : List Byte) : Prop :=
  ∃ t, exec (.frameBuild cmd) { s with busy := false } = .next t ∧ t.out = .bytes f

/-- `f` is the frame of the command payload that the operation `i` answers on an idle block. -/
def CommandFrame (s : State) (i : Instr) (f : List Byte) : Prop :=
  ∃ w, exec i { s with busy := false } = .next (({ s with busy := false } : State).answered (.bytes w)) ∧ FrameOf s w f

/-- The reply payload `d` acknowledges a write at `offset` (44_commands.md R138): opcode and both bytes of the echo. -/
def Acknowledges (c : Config) (d : List Byte) (offset : Nat) : Prop :=
  d[c.ackOpcPos]? = some c.writeAckOpc ∧ d[c.ackOffLoPos]? = some (BitVec.ofNat 8 offset) ∧
    d[c.ackOffHiPos]? = some (BitVec.ofNat 8 (offset / 256))

/-- A reply as it comes on the line: an obfuscated payload and two checksum bytes (43_framing.md R113, R115). -/
abbrev Reply := List Byte × Byte × Byte

/-- The frame of a reply. -/
def replyFrame (r : Reply) : List Byte := wireFrame r.1 r.2.1 r.2.2

/-- One round of the checksum on numbers (42_checksum.md R100). -/
def crcRoundNat (c : Nat) : Nat := if 2 * c ≥ 65536 then (Nat.xor (2 * c) 0x1021) % 65536 else 2 * c

/-- One byte of the checksum on numbers (R100). -/
def crcByteNat (c : Nat) (b : Byte) : Nat := Nat.repeat crcRoundNat 8 (Nat.xor c (256 * b.toNat))

/-- The checksum on numbers (R100). -/
def crcNat (bs : List Byte) : Nat := bs.foldl crcByteNat 0

/-- The rows of the operation map (30_encoding.md R81). -/
def opselCodes : List Nat :=
  [0x01, 0x02, 0x10, 0x11] ++ [0x20, 0x21, 0x22, 0x23, 0x24, 0x25, 0x26] ++
  [0x30, 0x31, 0x32, 0x33, 0x34, 0x35, 0x36, 0x37] ++
  [0x40, 0x41, 0x42, 0x43, 0x44, 0x45, 0x46, 0x47, 0x48, 0x49, 0x4A, 0x4B] ++ [0x50, 0x51]

/-- An instruction that the host issues or calls, as against bytes on the line or a record (R81, R82). -/
def issuedInstr (i : Instr) : Bool :=
  match encode i with
  | .issue _ _ => true
  | .call _ _ => true
  | _ => false

/-- A tone that its table holds (45_channel_record.md R157). -/
def toneKnown (c : Config) : Tone → Bool
  | .noTone => true
  | .ctcss v => c.ctcss.contains v
  | .dcs v _ => c.dcs.contains v

/-- A duplex that contradicts its offset or reuses an assigned code (R163). -/
def duplexBad (c : Config) (d : Duplex) (offset10 : Word) : Bool :=
  match d with
  | .dupNone => false
  | .plus => offset10 == 0
  | .minus => offset10 == 0
  | .reserved k => offset10 == 0 || k.toNat == c.dupNone || k.toNat == c.dupPlus || k.toNat == c.dupMinus

/-- A reserved power code that is an assigned one (R164). -/
def powerBad (c : Config) : Power → Bool
  | .reserved k => k.toNat == c.pwrLow || k.toNat == c.pwrMed || k.toNat == c.pwrHigh
  | _ => false

/-- The first check of R174 that a channel fails, in the order of 60_exceptions.md R258, with `ERR.KIND` and `ERR.INFO`. -/
def firstFailure (c : Config) (ch : Chan) : Option (BitVec 3 × BitVec 8 × Cause) :=
  if ch.freq10 = 0 ∨ ch.freq10 = 0xFFFFFFFF then some (5, 5, .badFreq)
  else if duplexBad c ch.duplex ch.offset10 then some (5, 6, .badDuplex)
  else if !toneKnown c ch.rxTone then some (4, 1, .tone)
  else if !toneKnown c ch.txTone then some (4, 1, .tone)
  else if powerBad c ch.power then some (5, 7, .badEnum)
  else if !c.step.contains ch.step then some (4, 2, .step)
  else if c.scrMax < ch.scrambler.toNat then some (4, 3, .enumValue)
  else none

/-- The type and code stored for a tone are `ty` and `code` (R157, R158). -/
def ToneStored (c : Config) (t : Tone) (ty : Nat) (code : Byte) : Prop :=
  match t with
  | .noTone => ty = 0 ∧ code = 0
  | .ctcss v => ty = 1 ∧ code.toNat < 50 ∧ c.ctcss[code.toNat]? = some v
  | .dcs v false => ty = 2 ∧ c.dcs[code.toNat]? = some v
  | .dcs v true => ty = 3 ∧ c.dcs[code.toNat]? = some v

/-- The code stored for a duplex (R163). -/
def duplexCode (c : Config) : Duplex → Nat
  | .dupNone => c.dupNone
  | .plus => c.dupPlus
  | .minus => c.dupMinus
  | .reserved k => k.toNat

/-- The code stored for a power level (R164). -/
def powerCode (c : Config) : Power → Nat
  | .low => c.pwrLow
  | .med => c.pwrMed
  | .high => c.pwrHigh
  | .reserved k => k.toNat

/-- A field descriptor covers bit `j` of byte `i` of a record. -/
def covers (f : FieldDesc) (i j : Nat) : Bool := i == f.byte && decide (f.shift ≤ j) && decide (j < f.shift + f.width)

/-- The bits `F.shift` to `F.shift + F.width - 1` of byte `F.byte` of a record, as a number (00_scope.md R8). -/
def fieldNat (r : List Byte) (f : FieldDesc) : Nat := (byteAt r f.byte).toNat / 2 ^ f.shift % 2 ^ f.width

/-- The little-endian number in bytes `i` to `i + 3` of a record (20_memory.md R41). -/
def le32Nat (r : List Byte) (i : Nat) : Nat :=
  (byteAt r i).toNat + 256 * (byteAt r (i + 1)).toNat + 65536 * (byteAt r (i + 2)).toNat +
    16777216 * (byteAt r (i + 3)).toNat

/-- `o` is the text of `r` (46 R191): the cut stands before the first terminator or at the end, and the spaces that end it
are gone. -/
def IsTextOf (o r : List Byte) : Prop :=
  ∃ cut, cut ≤ r.length ∧ (∀ i, i < cut → byteAt r i ≠ 0x00 ∧ byteAt r i ≠ 0xFF) ∧
    (cut < r.length → byteAt r cut = 0x00 ∨ byteAt r cut = 0xFF) ∧
    o.length ≤ cut ∧ o = r.take o.length ∧ (∀ i, o.length ≤ i → i < cut → byteAt r i = 0x20) ∧
    (o ≠ [] → byteAt r (o.length - 1) ≠ 0x20)

/-- Every byte of a text can be encoded (46 R193). -/
def Printable (t : List Byte) : Prop := ∀ b ∈ t, 0x20 ≤ b.toNat ∧ b.toNat ≤ 0x7E

/-- The channel table and the name table lie in the image (20_memory.md R47). -/
abbrev TablesInImage (c : Config) : Prop :=
  c.chBase + 16 * Config.chSlots ≤ Config.imgSize ∧ c.nameBase + 16 * Config.nameSlots ≤ Config.imgSize

/-- The names of the one-byte settings fields and where `SETTINGS_MAP` puts each (46 R204 to R217, R220). -/
def settingTable (m : SettingsMap) : List (FieldName × Nat) :=
  [(ascii "squelch", m.squelch), (ascii "vox_level", m.voxLevel), (ascii "mic_gain", m.micGain),
   (ascii "display_mode", m.displayMode), (ascii "crossband", m.crossband), (ascii "dual_watch", m.dualWatch),
   (ascii "beep", m.beep), (ascii "scan_resume", m.scanResume), (ascii "keypad_lock", m.keypadLock),
   (ascii "poweron_display", m.poweronDisplay), (ascii "language", m.language), (ascii "alarm_mode", m.alarmMode),
   (ascii "end_of_talk", m.endOfTalk), (ascii "rte", m.rte), (ascii "flock", m.flock)]

/-- INVARIANT: the image is in canonical form. -/
abbrev State.ImageWf (s : State) : Prop := Memory.wf s.cfg.startImage s.img = true

/-- INVARIANT: the buffers keep their sizes (R10) and bit 16 of `CRC` is 0 between rounds (R13). -/
abbrev State.RegistersWf (s : State) : Prop := s.Buffers ∧ s.crc.getLsbD 16 = false

/-- INVARIANT: `ERR` holds a kind and sub-code of the table of R251 (R20). -/
abbrev State.StatusWf (s : State) : Prop := s.err.legal = true

/-- INVARIANT: the sequencer, `CNT` and `BUSY` agree (10_state.md R16, R18, R21), and a waiting reception has taken every
byte that arrived. -/
def State.SequencerWf (s : State) : Prop :=
  match s.rxs with
  | .idle => s.busy = false ∧ s.cnt = 0 ∧ s.seq = .ret
  | .hdr => s.busy = true ∧ s.cnt.toNat ≤ 3 ∧ s.rxq = []
  | .pay => s.busy = true ∧ s.cnt.toNat < s.len.toNat ∧ s.rxq = []
  | .trl => s.busy = true ∧ s.cnt.toNat ≤ 3 ∧ s.rxq = []

/-- INVARIANT: the host sequence in progress is at a place its rule has (47 R236, R241, R242): attempt 1 to 5, block 0 to
63 with the bytes of the blocks before it, block 0 to 57. -/
def HostSeq.Legal : HostSeq → Prop
  | .ret => True
  | .identify k _ => 1 ≤ k ∧ k ≤ 5
  | .read _ => True
  | .write _ => True
  | .download k buf _ => k ≤ 63 ∧ buf.length = 128 * k
  | .upload k => k ≤ 57

end Sys2Proof.Machine
end

