-- ==== Sys2Proof/Certificates/Slice0/Obligations.lean ====
section
/-! DEFINITION. The statements for the provers, from the numbered rules of spec/, in the order of OBLIGATIONS.json. -/

open Sys2Proof Sys2Proof.Machine

/-- R90, R93: `OBF` on an idle block is total, its byte `i` is `s[i] xor KEY[i mod 16]`, `KI` is left at `len mod 16`,
`ERR` is OK and nothing else of the state changes; `DEOBF` is the same transform. -/
def Obligations.ObfXorsRepeatingKey : Prop :=
  ∀ (bs : List Byte) (s : State), s.busy = false →
    OpselIs 0x01 (.obf bs) ∧ ∃ o, XorsKey s.cfg bs o ∧
    exec (.obf bs) s = .next { s with ki := BitVec.ofNat 4 bs.length, err := ⟨0, 0⟩, out := .bytes o } ∧
    exec (.deobf bs) s = .next { s with ki := BitVec.ofNat 4 bs.length, err := ⟨0, 0⟩, out := .bytes o }

/-- R91: `OBF` of what `OBF` answered is the sequence it was given, for every sequence and every `KEY`. -/
def Obligations.ObfTwiceIsIdentity : Prop :=
  ∀ (bs : List Byte) (s : State), s.busy = false →
    ∃ t u o, exec (.obf bs) s = .next t ∧ t.out = .bytes o ∧ exec (.obf o) t = .next u ∧ u.out = .bytes bs

/-- R92: `OBF` of a concatenation begins with `OBF` of the first part, and byte `j` of the second part meets
`KEY[(len + j) mod 16]`; a receiver that de-obfuscates the first `len` bytes alone gets the first part back. -/
def Obligations.ObfOfConcatenation : Prop :=
  ∀ (bs ct : List Byte) (s : State), s.busy = false →
    ∃ t u v o p, exec (.obf (bs ++ ct)) s = .next t ∧ t.out = .bytes o ∧ exec (.obf bs) s = .next u ∧ u.out = .bytes p ∧
      o.take bs.length = p ∧
      (∀ j, j < ct.length → byteAt o (bs.length + j) = byteAt ct j ^^^ byteAt s.cfg.key ((bs.length + j) % 16)) ∧
      exec (.obf (o.take bs.length)) s = .next v ∧ v.out = .bytes bs

/-- R100: `CRC16` on an idle block is total; the register `CRC` and the answer are the number that the shift register of
R100 reaches from 0, which fits in 16 bits; `ERR` is OK and nothing else of the state changes. -/
def Obligations.Crc16IsShiftRegister : Prop :=
  ∀ (bs : List Byte) (s : State), s.busy = false →
    OpselIs 0x02 (.crc16 bs) ∧ crcNat bs < 65536 ∧
    exec (.crc16 bs) s = .next { s with crc := BitVec.ofNat 17 (crcNat bs), err := ⟨0, 0⟩,
                                        out := .half (BitVec.ofNat 16 (crcNat bs)) }

/-- R103: the checksum of a sequence with its own checksum appended high byte first is 0; appended low byte first, as
this hardware does, it need not be: the nine digits give `0xBAFE`. -/
def Obligations.Crc16ResidueByteOrder : Prop :=
  (∀ (bs : List Byte) (s : State), s.busy = false →
    ∃ t u c, exec (.crc16 bs) s = .next t ∧ t.out = .half c ∧
      exec (.crc16 (bs ++ [c.extractLsb' 8 8, c.extractLsb' 0 8])) s = .next u ∧ u.out = .half 0) ∧
  (∀ s : State, s.busy = false →
    ∃ t u, exec (.crc16 [0x31, 0x32, 0x33, 0x34, 0x35, 0x36, 0x37, 0x38, 0x39, 0x31, 0xC3]) s = .next t ∧ t.out = .half 0 ∧
      exec (.crc16 [0x31, 0x32, 0x33, 0x34, 0x35, 0x36, 0x37, 0x38, 0x39, 0xC3, 0x31]) s = .next u ∧ u.out = .half 0xBAFE)

/-- R110, R111, R124: the frame of a payload of `L <= 255` bytes is `AB CD L 00`, the payload under the key from position
0, the two checksum bytes low byte first under key positions `L` and `L + 1`, `DC BA`, in all `L + 8` bytes; `LEN`, `CRC`,
`KI` and `ERR` are written and nothing else of the state; a longer payload raises TOO_LONG. -/
def Obligations.FrameBuildLayout : Prop :=
  ∀ (cmd : List Byte) (s : State), s.busy = false →
    OpselIs 0x10 (.frameBuild cmd) ∧
    (cmd.length ≤ 255 → ∃ p k0 k1, XorsKey s.cfg cmd p ∧
      k0 = BitVec.ofNat 8 (crcNat cmd) ^^^ byteAt s.cfg.key (cmd.length % 16) ∧
      k1 = BitVec.ofNat 8 (crcNat cmd / 256) ^^^ byteAt s.cfg.key ((cmd.length + 1) % 16) ∧
      (wireFrame p k0 k1).length = cmd.length + 8 ∧
      exec (.frameBuild cmd) s = .next { s with
        len := BitVec.ofNat 8 cmd.length, crc := BitVec.ofNat 17 (crcNat cmd), ki := BitVec.ofNat 4 (cmd.length + 2),
        err := ⟨0, 0⟩, out := .bytes (wireFrame p k0 k1) }) ∧
    (255 < cmd.length → exec (.frameBuild cmd) s = .next (s.failed 5 1 .tooLong))

/-- R115 (with the success case of R113, R121 and R232): where `RXQ` begins with a frame, whatever its two checksum bytes and
whatever follows it, `FRAME.PARSE` answers the payload under the key, removes exactly `LEN + 8` bytes, and changes besides `RXQ`, `ERR` and the
answer only its own working registers; `XCV.RECV` does the same. -/
def Obligations.FrameParseTakesFrame : Prop :=
  ∀ (p rest : List Byte) (k0 k1 : Byte) (s : State), s.busy = false → s.Buffers → p.length ≤ 255 →
    s.rxq = wireFrame p k0 k1 ++ rest →
    ∃ o t, XorsKey s.cfg p o ∧
      t = { s with hb := [0xAB, 0xCD, BitVec.ofNat 8 p.length, 0x00], len := BitVec.ofNat 8 p.length,
                   rxb := p ++ s.rxb.drop p.length, tb := [k0, k1, 0xDC, 0xBA], ki := BitVec.ofNat 4 p.length,
                   err := ⟨0, 0⟩, rxs := .idle, cnt := 0, seq := .ret, rxq := rest, out := .bytes o } ∧
      exec .frameParse s = .next t ∧ exec .xcvRecv s = .next t

/-- R114, R121: a header of four bytes that is wrong ends `FRAME.PARSE` and `XCV.RECV` with BAD_HEAD where the magic is
wrong, else BAD_RSVD; exactly the four bytes are removed. -/
def Obligations.FrameParseRefusesHeader : Prop :=
  ∀ (b0 b1 b2 b3 : Byte) (rest : List Byte) (i : BitVec 8) (c : Cause) (s : State), s.busy = false → s.Buffers →
    s.rxq = [b0, b1, b2, b3] ++ rest → headerFault b0 b1 b3 = some (i, c) →
    ∃ t, t = { s with hb := [b0, b1, b2, b3], err := ⟨1, i⟩, rxs := .idle, cnt := 0, seq := .ret, rxq := rest,
                      out := .error c } ∧
      exec .frameParse s = .next t ∧ exec .xcvRecv s = .next t

/-- R113, R114, R121: behind a good header and `LEN` payload bytes, a trailer whose last two bytes are not `DC BA` ends
`FRAME.PARSE` and `XCV.RECV` with BAD_TAIL; `LEN + 8` bytes are removed. -/
def Obligations.FrameParseRefusesTail : Prop :=
  ∀ (p rest : List Byte) (t0 t1 t2 t3 : Byte) (s : State), s.busy = false → s.Buffers → p.length ≤ 255 →
    s.rxq = [0xAB, 0xCD, BitVec.ofNat 8 p.length, 0x00] ++ p ++ [t0, t1, t2, t3] ++ rest → (t2 ≠ 0xDC ∨ t3 ≠ 0xBA) →
    ∃ t, t = { s with hb := [0xAB, 0xCD, BitVec.ofNat 8 p.length, 0x00], len := BitVec.ofNat 8 p.length,
                      rxb := p ++ s.rxb.drop p.length, tb := [t0, t1, t2, t3], err := ⟨1, 3⟩, rxs := .idle, cnt := 0,
                      seq := .ret, rxq := rest, out := .error .badTail } ∧
      exec .frameParse s = .next t ∧ exec .xcvRecv s = .next t

/-- R116 to R119: `start` on an idle block, and each stage of a plain reception on one more byte `b`, to the letter of the
rules: what is stored, how `CNT`, `LEN` and `RXS` move, and how the reception ends. That the inputs to come after a
raise are those of `afterRaise` is the MODEL's choice (log entry 35; `StepRunsDecoded`). -/
def Obligations.ReceptionStages : Prop :=
  (∀ s : State, s.busy = false → s.rxq = [] →
    exec .frameParse s = .next { s with busy := true, cnt := 0, rxs := .hdr, seq := .ret }) ∧
  ∀ (b : Byte) (more : List Input) (s : State), s.inq = .line [b] :: more → s.rxq = [] → s.seq = .ret → s.Buffers →
    (s.rxs = .hdr → s.cnt.toNat < 3 →
      step s = .next { s with inq := more, hb := s.hb.set s.cnt.toNat b, cnt := s.cnt + 1 }) ∧
    (s.rxs = .hdr → s.cnt = 3 → ∀ i c, headerFault (byteAt s.hb 0) (byteAt s.hb 1) b = some (i, c) →
      step s = .next { s with inq := afterRaise c more, hb := s.hb.set 3 b, err := ⟨1, i⟩, rxs := .idle, cnt := 0,
                              busy := false, out := .error c }) ∧
    (s.rxs = .hdr → s.cnt = 3 → headerFault (byteAt s.hb 0) (byteAt s.hb 1) b = none →
      step s = .next { s with inq := more, hb := s.hb.set 3 b, len := byteAt s.hb 2, cnt := 0,
                              rxs := if byteAt s.hb 2 = 0 then .trl else .pay }) ∧
    (s.rxs = .pay → s.cnt.toNat + 1 < s.len.toNat →
      step s = .next { s with inq := more, rxb := s.rxb.set s.cnt.toNat b, cnt := s.cnt + 1 }) ∧
    (s.rxs = .pay → s.cnt.toNat + 1 = s.len.toNat →
      step s = .next { s with inq := more, rxb := s.rxb.set s.cnt.toNat b, cnt := 0, rxs := .trl }) ∧
    (s.rxs = .trl → s.cnt.toNat < 3 →
      step s = .next { s with inq := more, tb := s.tb.set s.cnt.toNat b, cnt := s.cnt + 1 }) ∧
    (s.rxs = .trl → s.cnt = 3 → (byteAt s.tb 2 ≠ 0xDC ∨ b ≠ 0xBA) →
      step s = .next { s with inq := afterRaise .badTail more, tb := s.tb.set 3 b, err := ⟨1, 3⟩, rxs := .idle, cnt := 0,
                              busy := false, out := .error .badTail }) ∧
    (s.rxs = .trl → s.cnt = 3 → byteAt s.tb 2 = 0xDC → b = 0xBA →
      ∃ o, XorsKey s.cfg (s.rxb.take s.len.toNat) o ∧
        step s = .next { s with inq := more, tb := s.tb.set 3 b, ki := BitVec.ofNat 4 s.len.toNat, err := ⟨0, 0⟩,
                                rxs := .idle, cnt := 0, busy := false, out := .bytes o })

/-- R120: a timeout ends a plain reception with IN_HDR, IN_PAY or IN_TRL by its stage and puts no byte back; in `IDLE` it
does nothing. That the inputs to come after a raise are those of `afterRaise` is the MODEL's choice (log entry 35). -/
def Obligations.TimeoutEndsReceptionByStage : Prop :=
  ∀ (more : List Input) (s : State), s.inq = .timeout :: more →
    (s.rxs = .idle → step s = .next { s with inq := more }) ∧
    (s.seq = .ret → ∀ st i c, (st, i, c) ∈ [(RxStage.hdr, (1 : BitVec 8), Cause.inHdr), (.pay, 2, .inPay), (.trl, 3, .inTrl)] →
      s.rxs = st →
      step s = .next { s with inq := afterRaise c more, err := ⟨3, i⟩, rxs := .idle, cnt := 0, busy := false,
                              out := .error c })

/-- R122: for every content of `RXQ`, every way the later bytes are cut into deliveries and every place of the timeout, the
sequencer ends as the function of R113 (`parseFrame`) says: the same payload or the same cause, the same `ERR`, the same
bytes left in `RXQ`. That the inputs to come are then those of `afterRaise`, or `more`, is the MODEL's choice (log entries 5
and 35; `StepRunsDecoded`). -/
def Obligations.SequencerAgreesWithFunction : Prop :=
  ∀ (chunks : List (List Byte)) (more : List Input) (s : State), s.busy = false → s.Buffers →
    s.inq = encode .frameParse :: (chunks.map Input.line ++ .timeout :: more) →
    ∃ t, Host.Core.run core (chunks.length + 2) s = .next t ∧ t.rxs = .idle ∧ t.busy = false ∧
      t.img = s.img ∧ t.txq = s.txq ∧ t.rxq = (parseFrame s.cfg (s.rxq ++ chunks.flatten)).2 ∧
      match (parseFrame s.cfg (s.rxq ++ chunks.flatten)).1 with
      | .ok p => t.out = .bytes p ∧ t.err = ⟨0, 0⟩ ∧ t.inq = more
      | .error c => t.out = .error c ∧ t.err = c.errReg ∧ t.inq = afterRaise c more

/-- R123: `FRAME.BUILD` then `FRAME.PARSE` gives back any payload of at most 255 bytes, for every `KEY`, and leaves what
follows the frame in `RXQ`. -/
def Obligations.FrameRoundTrip : Prop :=
  ∀ (cmd rest : List Byte) (s : State), s.busy = false → s.Buffers → cmd.length ≤ 255 →
    ∃ t f u, exec (.frameBuild cmd) s = .next t ∧ t.out = .bytes f ∧ exec .frameParse { t with rxq := f ++ rest } = .next u ∧
      u.out = .bytes cmd ∧ u.err = ⟨0, 0⟩ ∧ u.rxq = rest

/-- R288: while `BUSY = 1` every operation issued is refused, an unknown `OPSEL` too: the issuer is told BUSY and nothing else
changes, `ERR` in particular. That a macro called then is refused in the same way is the model's reading (log entry 12), and so is that a program which
does not handle the refusal has ended (`afterRaise`, log entry 35). -/
def Obligations.BusyIssueRefused : Prop :=
  (∀ (i : Instr) (s : State), issuedInstr i = true → s.busy = true → exec i s = .next { s with out := .error .busy }) ∧
  (∀ (op : Byte) (a : Operands) (more : List Input) (s : State), s.busy = true → s.inq = .issue op a :: more →
    step s = .next { s with inq := afterRaise .busy more, out := .error .busy })

/-- R81: the operation map, one clause per row, for every value of the operands; a code not in the table raises BAD_OP and
changes nothing else of the block. That the inputs to come are then those of `afterRaise` is the MODEL's choice (log entry 35;
`StepRunsDecoded`), and so are the operand lines (log entry 6). -/
def Obligations.OperationMap : Prop :=
  (∀ s, OpselIs 0x01 (.obf s)) ∧ (∀ s, OpselIs 0x02 (.crc16 s)) ∧ (∀ c, OpselIs 0x10 (.frameBuild c)) ∧
  OpselIs 0x11 .frameParse ∧ OpselIs 0x20 .cmdIdent ∧ (∀ r, OpselIs 0x21 (.rspIdent r)) ∧
  (∀ o l, OpselIs 0x22 (.cmdRead o l)) ∧ (∀ r l, OpselIs 0x23 (.rspRead r l)) ∧ (∀ d o, OpselIs 0x24 (.cmdWrite d o)) ∧
  (∀ r o, OpselIs 0x25 (.rspWrite r o)) ∧ OpselIs 0x26 .cmdReset ∧ (∀ n, OpselIs 0x30 (.chDecode n)) ∧
  (∀ n c, OpselIs 0x31 (.chEncode n c)) ∧ (∀ n, OpselIs 0x32 (.chErase n)) ∧ (∀ n, OpselIs 0x33 (.chIsEmpty n)) ∧
  (∀ t c, OpselIs 0x34 (.toneDec t c)) ∧ (∀ t, OpselIs 0x35 (.toneEnc t)) ∧ (∀ b, OpselIs 0x36 (.stepDec b)) ∧
  (∀ v, OpselIs 0x37 (.stepEnc v)) ∧ (∀ n, OpselIs 0x40 (.nameDecode n)) ∧ (∀ n t, OpselIs 0x41 (.nameEncode n t)) ∧
  (∀ i, OpselIs 0x42 (.fmDecode i)) ∧ (∀ i v, OpselIs 0x43 (.fmEncode i v)) ∧ (∀ f, OpselIs 0x44 (.setGet f)) ∧
  (∀ f v, OpselIs 0x45 (.setPut f v)) ∧ (∀ k, OpselIs 0x46 (.logoDecode k)) ∧ (∀ k t, OpselIs 0x47 (.logoEncode k t)) ∧
  OpselIs 0x48 .pwdGet ∧ (∀ p, OpselIs 0x49 (.pwdPut p)) ∧ (∀ g, OpselIs 0x4A (.unlockGet g)) ∧
  (∀ g v, OpselIs 0x4B (.unlockPut g v)) ∧ (∀ a b, OpselIs 0x50 (.imgLoad a b)) ∧ (∀ a n, OpselIs 0x51 (.imgStore a n)) ∧
  ∀ (op : Byte) (a : Operands) (more : List Input) (s : State), op.toNat ∉ opselCodes → s.busy = false →
    s.inq = .issue op a :: more → step s = .next (({ s with inq := afterRaise .badOp more } : State).failed 5 3 .badOp)

/-- R131, R133, R139: the identify, read and reset payloads, field by field, with their lengths; `ERR` is OK and nothing
else of the state changes. -/
def Obligations.CommandPayloads : Prop :=
  ∀ (offset : Half) (length : Byte) (s : State), s.busy = false →
    (OpselIs 0x20 .cmdIdent ∧ ∃ w, w = s.cfg.identPrefix ++ [0x6A, 0x39, 0x57, 0x64] ∧
      w.length = 8 ∧ exec .cmdIdent s = .next (s.answered (.bytes w))) ∧
    (OpselIs 0x22 (.cmdRead offset length) ∧ ∃ w,
      w = s.cfg.readPrefix ++ [BitVec.ofNat 8 offset.toNat, BitVec.ofNat 8 (offset.toNat / 256), length] ++ s.cfg.readPad ++
        [0x6A, 0x39, 0x57, 0x64] ∧
      w.length = s.cfg.readPrefix.length + s.cfg.readPad.length + 7 ∧
      exec (.cmdRead offset length) s = .next (s.answered (.bytes w))) ∧
    (OpselIs 0x26 .cmdReset ∧ s.cfg.resetCmd.length = 4 ∧ exec .cmdReset s = .next (s.answered (.bytes s.cfg.resetCmd)))

/-- R136: the write payload is prefix, offset low byte first, length, flag, the fixed trailer and then the data; where it
would pass 255 bytes TOO_LONG is raised; nothing else of the state changes. -/
def Obligations.WriteCommandPayload : Prop :=
  ∀ (data : List Byte) (offset : Half) (s : State), s.busy = false → OpselIs 0x24 (.cmdWrite data offset) ∧
    (s.cfg.wpLen + 8 + data.length ≤ 255 →
      ∃ pre w, s.cfg.writePrefix[data.length]? = some pre ∧ pre.length = s.cfg.wpLen ∧
        w = pre ++ [BitVec.ofNat 8 offset.toNat, BitVec.ofNat 8 (offset.toNat / 256), BitVec.ofNat 8 data.length,
          s.cfg.writeFlag] ++ [0x6A, 0x39, 0x57, 0x64] ++ data ∧
        w.length = s.cfg.wpLen + 8 + data.length ∧
        exec (.cmdWrite data offset) s = .next (s.answered (.bytes w))) ∧
    (255 < s.cfg.wpLen + 8 + data.length → exec (.cmdWrite data offset) s = .next (s.failed 5 1 .tooLong))

/-- R132: the firmware string is the run of printable bytes from offset 5 up to the first byte that is not printable, or to
the end of the reply; no other byte is looked at, nothing is refused. -/
def Obligations.IdentReplyString : Prop :=
  ∀ (r : List Byte) (s : State), s.busy = false → OpselIs 0x21 (.rspIdent r) ∧
    ∃ e, 5 ≤ e ∧ (5 < e → e ≤ r.length) ∧ Printable ((r.take e).drop 5) ∧
      (e < r.length → (byteAt r e).toNat < 0x20 ∨ 0x7E < (byteAt r e).toNat) ∧
      exec (.rspIdent r) s = .next (s.answered (.bytes ((r.take e).drop 5)))

/-- R134: after the 8 header bytes, unexamined, the first `length` bytes of a read reply; fewer raise SHORT_REPLY. -/
def Obligations.ReadReplyData : Prop :=
  ∀ (r : List Byte) (length : Byte) (s : State), s.busy = false → OpselIs 0x23 (.rspRead r length) ∧
    (length.toNat ≤ r.length - 8 → ∃ d, d.length = length.toNat ∧ (∀ i, i < length.toNat → byteAt d i = byteAt r (8 + i)) ∧
      exec (.rspRead r length) s = .next (s.answered (.bytes d))) ∧
    (r.length - 8 < length.toNat → exec (.rspRead r length) s = .next (s.failed 2 1 .shortReply))

/-- R138: a write reply acknowledges exactly when it holds the opcode and both bytes of the offset at their places; a reply
too short for them does not; `false` is a result, not an error. -/
def Obligations.WriteReplyAcknowledges : Prop :=
  ∀ (r : List Byte) (offset : Half) (s : State), s.busy = false → OpselIs 0x25 (.rspWrite r offset) ∧
    ∃ b, exec (.rspWrite r offset) s = .next (s.answered (.bool b)) ∧ (b = true ↔ Acknowledges s.cfg r offset.toNat)

/-- R152: a channel is empty iff its frequency field is `0x00000000` or `0xFFFFFFFF`; no other byte decides; a number outside
1 to 214 raises BAD_CHANNEL. -/
def Obligations.EmptyBySentinel : Prop :=
  ∀ (n : Nat) (s : State), s.busy = false → TablesInImage s.cfg → OpselIs 0x33 (.chIsEmpty n) ∧
    (1 ≤ n → n ≤ 214 → ∃ b, exec (.chIsEmpty n) s = .next (s.answered (.bool b)) ∧
      (b = true ↔ (∀ i, i < 4 → s.rd (s.cfg.chBase + 16 * (n - 1) + i) = 0x00) ∨
        (∀ i, i < 4 → s.rd (s.cfg.chBase + 16 * (n - 1) + i) = 0xFF))) ∧
    (n < 1 ∨ 214 < n → exec (.chIsEmpty n) s = .next (s.failed 5 4 .badChannel))

/-- R150, R190: every channel operation refuses a number outside 1 to 214 and every name operation one outside 1 to 200,
with BAD_CHANNEL, whatever its other operands, the image and the parameters. -/
def Obligations.BadChannelNumberRefused : Prop :=
  ∀ (n : Nat) (ch : Channel) (txt : List Byte) (s : State), s.busy = false →
    (n < 1 ∨ 214 < n → ∀ i ∈ [Instr.chDecode n, .chEncode n ch, .chErase n, .chIsEmpty n],
      exec i s = .next (s.failed 5 4 .badChannel)) ∧
    (n < 1 ∨ 200 < n → ∀ i ∈ [Instr.nameDecode n, .nameEncode n txt], exec i s = .next (s.failed 5 4 .badChannel))

/-- R172, R162 (with the decode half of R164 and R169): `CH.DECODE` field by field from the 16 bytes of the record; an empty
record is `Empty`; no content makes it fail and nothing but `ERR` and the answer changes; a number outside 1 to 214 raises
BAD_CHANNEL. -/
def Obligations.ChannelDecodeFields : Prop :=
  ∀ (n : Nat) (r : List Byte) (s : State), s.busy = false → TablesInImage s.cfg → WfFields s.cfg → 1 ≤ n → n ≤ 214 →
    r = s.rdBytes (s.cfg.chBase + 16 * (n - 1)) 16 →
    OpselIs 0x30 (.chDecode n) ∧
    (∀ m, m < 1 ∨ 214 < m → exec (.chDecode m) s = .next (s.failed 5 4 .badChannel)) ∧
    (le32Nat r 0 = 0 ∨ le32Nat r 0 = 0xFFFFFFFF → exec (.chDecode n) s = .next (s.answered (.channel .empty))) ∧
    (le32Nat r 0 ≠ 0 → le32Nat r 0 ≠ 0xFFFFFFFF → ∃ rx tx st,
      exec (.toneDec (BitVec.ofNat 2 (fieldNat r ⟨10, 0, 2⟩)) (byteAt r 8)) s = .next (s.answered (.tone rx)) ∧
      exec (.toneDec (BitVec.ofNat 2 (fieldNat r ⟨10, 4, 2⟩)) (byteAt r 9)) s = .next (s.answered (.tone tx)) ∧
      exec (.stepDec (byteAt r 14)) s = .next (s.answered (.step st)) ∧
      exec (.chDecode n) s = .next (s.answered (.channel (.chan {
        freq10 := BitVec.ofNat 32 (le32Nat r 0)
        offset10 := BitVec.ofNat 32 (le32Nat r 4)
        duplex :=
          if le32Nat r 4 = 0 then .dupNone
          else if fieldNat r s.cfg.fDuplex = s.cfg.dupNone then .dupNone
          else if fieldNat r s.cfg.fDuplex = s.cfg.dupPlus then .plus
          else if fieldNat r s.cfg.fDuplex = s.cfg.dupMinus then .minus
          else .reserved (BitVec.ofNat 2 (fieldNat r s.cfg.fDuplex))
        rxTone := rx
        txTone := tx
        am := fieldNat r s.cfg.fAm == 1
        narrow := fieldNat r s.cfg.fBw == 1
        reverse := fieldNat r s.cfg.fRev == 1
        bclo := fieldNat r s.cfg.fBclo == 1
        power :=
          if fieldNat r s.cfg.fPower = s.cfg.pwrLow then .low
          else if fieldNat r s.cfg.fPower = s.cfg.pwrMed then .med
          else if fieldNat r s.cfg.fPower = s.cfg.pwrHigh then .high
          else .reserved (BitVec.ofNat 2 (fieldNat r s.cfg.fPower))
        pttid := BitVec.ofNat 2 (fieldNat r s.cfg.fPttid)
        dtmfDecode := fieldNat r s.cfg.fDtmfdec == 1
        step := st
        scrambler := BitVec.ofNat 8 (fieldNat r s.cfg.fScr) }))))

/-- R156: `TONE.DEC` by type: 0 is no tone whatever the code, 1 the CTCSS entry, 2 and 3 the DCS entry in normal and
reversed polarity; an index outside its table is no tone; never an error. -/
def Obligations.ToneDecodeTable : Prop :=
  ∀ (code : Byte) (s : State), s.busy = false →
    (∀ ty, OpselIs 0x34 (.toneDec ty code)) ∧
    exec (.toneDec 0 code) s = .next (s.answered (.tone .noTone)) ∧
    exec (.toneDec 1 code) s = .next (s.answered (.tone (match s.cfg.ctcss[code.toNat]? with
      | some v => .ctcss v
      | none => .noTone))) ∧
    exec (.toneDec 2 code) s = .next (s.answered (.tone (match s.cfg.dcs[code.toNat]? with
      | some v => .dcs v false
      | none => .noTone))) ∧
    exec (.toneDec 3 code) s = .next (s.answered (.tone (match s.cfg.dcs[code.toNat]? with
      | some v => .dcs v true
      | none => .noTone)))

/-- R157, R158: `TONE.ENC` of a tone its table holds is the type and the index of it, `(0, 0)` for no tone; of any other tone
it raises TONE: nothing is clamped. -/
def Obligations.ToneEncodeLookup : Prop :=
  ∀ (t : Tone) (s : State), s.busy = false → WfTables s.cfg → OpselIs 0x35 (.toneEnc t) ∧
    (toneKnown s.cfg t = true → ∃ ty code, ToneStored s.cfg t ty.toNat code ∧
      exec (.toneEnc t) s = .next (s.answered (.toneCode ty code)) ∧
      exec (.toneDec ty code) s = .next (s.answered (.tone t))) ∧
    (toneKnown s.cfg t = false → exec (.toneEnc t) s = .next (s.failed 4 1 .tone))

/-- R170, R171: `STEP.DEC` reads the index in bits 3 to 1 and falls back to the default; `STEP.ENC` gives the index of a step
the list holds and raises STEP for any other. -/
def Obligations.StepDecodeEncode : Prop :=
  ∀ (b : Byte) (v : StepVal) (s : State), s.busy = false →
    (OpselIs 0x36 (.stepDec b) ∧
      exec (.stepDec b) s = .next (s.answered (.step (s.cfg.step.getD (b.toNat / 2 % 8) s.cfg.stepDefault)))) ∧
    OpselIs 0x37 (.stepEnc v) ∧
    (v ∈ s.cfg.step → ∃ i : BitVec 3, s.cfg.step[i.toNat]? = some v ∧
      exec (.stepEnc v) s = .next (s.answered (.stepIndex i))) ∧
    (v ∉ s.cfg.step → exec (.stepEnc v) s = .next (s.failed 4 2 .step))

/-- R176, R181: erasing a channel, which encoding `Empty` does too, makes its record and, up to number 200, its name record
all `0xFF`, and changes no other byte; the channel then reads as empty, and its name as the empty name; a number outside 1
to 214 raises BAD_CHANNEL. -/
def Obligations.EraseWritesBothRecords : Prop :=
  ∀ (n : Nat) (s : State), s.busy = false → TablesInImage s.cfg → s.ImageWf → 1 ≤ n → n ≤ 214 →
    OpselIs 0x32 (.chErase n) ∧
    (∀ m, m < 1 ∨ 214 < m → exec (.chErase m) s = .next (s.failed 5 4 .badChannel) ∧
      exec (.chEncode m .empty) s = .next (s.failed 5 4 .badChannel)) ∧
    ∃ t, exec (.chErase n) s = .next t ∧ exec (.chEncode n .empty) s = .next t ∧ t.StoredFrom s .done ∧
      (∀ x, t.rd x =
        if (s.cfg.chBase + 16 * (n - 1) ≤ x ∧ x < s.cfg.chBase + 16 * (n - 1) + 16) ∨
          (n ≤ 200 ∧ s.cfg.nameBase + 16 * (n - 1) ≤ x ∧ x < s.cfg.nameBase + 16 * (n - 1) + 16) then 0xFF else s.rd x) ∧
      exec (.chIsEmpty n) t = .next (t.answered (.bool true)) ∧
      exec (.chDecode n) t = .next (t.answered (.channel .empty)) ∧
      (n ≤ 200 → exec (.nameDecode n) t = .next (t.answered (.bytes [])))

/-- R174: `CH.ENCODE` of a channel that fails a check raises the first one it fails, the number before all others, in the order
of R174, and changes no byte of the image. -/
def Obligations.EncodeRaisesFirstFailure : Prop :=
  ∀ (n : Nat) (ch : Chan) (s : State), s.busy = false →
    (n < 1 ∨ 214 < n → exec (.chEncode n (.chan ch)) s = .next (s.failed 5 4 .badChannel)) ∧
    (1 ≤ n → n ≤ 214 → ∀ (k : BitVec 3) (i : BitVec 8) (c : Cause), firstFailure s.cfg ch = some (k, i, c) →
      exec (.chEncode n (.chan ch)) s = .next (s.failed k i c))

/-- R175, R163, R164, R179: where no check fails, `CH.ENCODE` stores every field of the channel in its place, keeps
every bit of bytes 10 to 15 that no field covers (or leaves it 0 where `zero_first` cleared an erased record), and changes
no byte outside the 16 of the record. -/
def Obligations.EncodeStoresEveryField : Prop :=
  ∀ (n a : Nat) (ch : Chan) (s : State), s.busy = false → TablesInImage s.cfg → WfFields s.cfg → WfTables s.cfg →
    s.ImageWf → 1 ≤ n → n ≤ 214 → a = s.cfg.chBase + 16 * (n - 1) → firstFailure s.cfg ch = none →
    OpselIs 0x31 (.chEncode n (.chan ch)) ∧
    ∃ t r, exec (.chEncode n (.chan ch)) s = .next t ∧ r = t.rdBytes a 16 ∧ t.StoredFrom s .done ∧
      (∀ x, ¬ (a ≤ x ∧ x < a + 16) → t.rd x = s.rd x) ∧
      le32Nat r 0 = ch.freq10.toNat ∧ le32Nat r 4 = (if ch.duplex = .dupNone then 0 else ch.offset10.toNat) ∧
      ToneStored s.cfg ch.rxTone (fieldNat r ⟨10, 0, 2⟩) (byteAt r 8) ∧
      ToneStored s.cfg ch.txTone (fieldNat r ⟨10, 4, 2⟩) (byteAt r 9) ∧
      fieldNat r s.cfg.fDuplex = duplexCode s.cfg ch.duplex ∧ fieldNat r s.cfg.fAm = ch.am.toNat ∧
      fieldNat r s.cfg.fBw = ch.narrow.toNat ∧ fieldNat r s.cfg.fRev = ch.reverse.toNat ∧
      fieldNat r s.cfg.fPower = powerCode s.cfg ch.power ∧ fieldNat r s.cfg.fBclo = ch.bclo.toNat ∧
      fieldNat r s.cfg.fPttid = ch.pttid.toNat ∧ fieldNat r s.cfg.fDtmfdec = ch.dtmfDecode.toNat ∧
      s.cfg.step[fieldNat r ⟨14, 1, 3⟩]? = some ch.step ∧ fieldNat r s.cfg.fScr = ch.scrambler.toNat ∧
      ∀ i j, 10 ≤ i → i < 16 → j < 8 → (∀ f ∈ allDescs s.cfg, covers f i j = false) →
        (byteAt r i).getLsbD j =
          if s.cfg.chEncodeOnEmpty = .zeroFirst ∧ s.rdBytes a 16 = List.replicate 16 0xFF then false
          else (s.rd (a + i)).getLsbD j

/-- R179: two records that agree on bytes 0 to 9 and on every bit some field covers decode alike: the other bits are never
read by decode. -/
def Obligations.UncoveredBitsNotRead : Prop :=
  ∀ (n a : Nat) (s s' : State), s.busy = false → s'.busy = false → s.cfg = s'.cfg → TablesInImage s.cfg → WfFields s.cfg →
    1 ≤ n → n ≤ 214 → a = s.cfg.chBase + 16 * (n - 1) → (∀ i, i < 10 → s.rd (a + i) = s'.rd (a + i)) →
    (∀ i j, 10 ≤ i → i < 16 → j < 8 → (∃ f ∈ allDescs s.cfg, covers f i j = true) →
      (s.rd (a + i)).getLsbD j = (s'.rd (a + i)).getLsbD j) →
    ∃ v, exec (.chDecode n) s = .next (s.answered (.channel v)) ∧ exec (.chDecode n) s' = .next (s'.answered (.channel v))

/-- R180: what `CH.ENCODE` stored of a channel `CH.DECODE` gives back, but for the offset of a channel without duplex,
which comes back as 0. -/
def Obligations.ChannelValueRoundTrip : Prop :=
  ∀ (n : Nat) (ch : Chan) (s t : State), s.busy = false → TablesInImage s.cfg → WfFields s.cfg → WfTables s.cfg → s.ImageWf →
    exec (.chEncode n (.chan ch)) s = .next t → t.err = ⟨0, 0⟩ →
    exec (.chDecode n) t = .next (t.answered (.channel (.chan
      { ch with offset10 := if ch.duplex = .dupNone then 0 else ch.offset10 })))

/-- R177, R178 read with R181 (log entry 28): decoding a canonical record and encoding what came out raises nothing and
leaves every byte of the image as it was; where the record is the erased one, the 16 bytes of its name, which encoding
`Empty` erases too, are excepted. -/
def Obligations.ChannelImageRoundTrip : Prop :=
  ∀ (n a : Nat) (s : State), s.busy = false → TablesInImage s.cfg → WfFields s.cfg → WfTables s.cfg → s.ImageWf →
    1 ≤ n → n ≤ 214 → a = s.cfg.chBase + 16 * (n - 1) → canonicalRecord s.cfg (s.rdBytes a 16) = true →
    ∃ v t u, exec (.chDecode n) s = .next t ∧ t.out = .channel v ∧ exec (.chEncode n v) t = .next u ∧
      u.StoredFrom s .done ∧
      ∀ x, (s.rdBytes a 16 ≠ List.replicate 16 0xFF ∨ 200 < n ∨ (a ≤ x ∧ x < a + 16) ∨ x < s.cfg.nameBase + 16 * (n - 1) ∨
        s.cfg.nameBase + 16 * (n - 1) + 16 ≤ x) → u.rd x = s.rd x

/-- R191, R218: a name is its record cut at the first `0x00` or `0xFF` and then without the spaces that end it, a logo
string the same over the first 12 bytes of its line; only the number is ever refused. -/
def Obligations.NameAndLogoDecode : Prop :=
  ∀ (n k a : Nat) (s : State), s.busy = false → TablesInImage s.cfg →
    a = (if k = 1 then s.cfg.settingsMap.logo1 else s.cfg.settingsMap.logo2) → a + 16 ≤ 8192 →
    (OpselIs 0x40 (.nameDecode n) ∧
      (1 ≤ n → n ≤ 200 → ∃ o, IsTextOf o (s.rdBytes (s.cfg.nameBase + 16 * (n - 1)) 16) ∧
        exec (.nameDecode n) s = .next (s.answered (.bytes o))) ∧
      (n < 1 ∨ 200 < n → exec (.nameDecode n) s = .next (s.failed 5 4 .badChannel))) ∧
    OpselIs 0x46 (.logoDecode k) ∧
    (k = 1 ∨ k = 2 → ∃ o, IsTextOf o (s.rdBytes a 12) ∧ exec (.logoDecode k) s = .next (s.answered (.bytes o))) ∧
    (k ≠ 1 → k ≠ 2 → exec (.logoDecode k) s = .next (s.failed 5 10 .badIndex))

/-- R192: a printable name of at most `NAME_PAD_WIDTH` bytes is stored with spaces up to that width and `0xFF` up to 16, and
no other byte changes; a longer name raises BAD_NAME, a byte that is not printable BAD_CHAR, after the number. -/
def Obligations.NameEncodeStores : Prop :=
  ∀ (n : Nat) (txt : List Byte) (s : State), s.busy = false → TablesInImage s.cfg → s.ImageWf →
    OpselIs 0x41 (.nameEncode n txt) ∧
    (1 ≤ n → n ≤ 200 → txt.length ≤ s.cfg.namePadWidth → Printable txt → ∃ t, exec (.nameEncode n txt) s = .next t ∧
      t.StoredFrom s .done ∧ t.BytesFrom s (s.cfg.nameBase + 16 * (n - 1))
        (txt ++ List.replicate (s.cfg.namePadWidth - txt.length) 0x20 ++ List.replicate (16 - s.cfg.namePadWidth) 0xFF)) ∧
    (n < 1 ∨ 200 < n → exec (.nameEncode n txt) s = .next (s.failed 5 4 .badChannel)) ∧
    (1 ≤ n → n ≤ 200 → s.cfg.namePadWidth < txt.length → exec (.nameEncode n txt) s = .next (s.failed 5 8 .badName)) ∧
    (1 ≤ n → n ≤ 200 → txt.length ≤ s.cfg.namePadWidth → ¬ Printable txt →
      exec (.nameEncode n txt) s = .next (s.failed 5 9 .badChar))

/-- R223: a printable string of at most 12 bytes is stored with spaces in bytes 0 to 11 of its line, and no other byte
changes; BAD_INDEX, BAD_NAME and BAD_CHAR in that order. -/
def Obligations.LogoEncodeStores : Prop :=
  ∀ (k a : Nat) (txt : List Byte) (s : State), s.busy = false → s.ImageWf →
    a = (if k = 1 then s.cfg.settingsMap.logo1 else s.cfg.settingsMap.logo2) → a + 16 ≤ 8192 →
    OpselIs 0x47 (.logoEncode k txt) ∧
    (k = 1 ∨ k = 2 → txt.length ≤ 12 → Printable txt → ∃ t, exec (.logoEncode k txt) s = .next t ∧ t.StoredFrom s .done ∧
      t.BytesFrom s a (txt ++ List.replicate (12 - txt.length) 0x20)) ∧
    (k ≠ 1 → k ≠ 2 → exec (.logoEncode k txt) s = .next (s.failed 5 10 .badIndex)) ∧
    (k = 1 ∨ k = 2 → 12 < txt.length → exec (.logoEncode k txt) s = .next (s.failed 5 8 .badName)) ∧
    (k = 1 ∨ k = 2 → txt.length ≤ 12 → ¬ Printable txt → exec (.logoEncode k txt) s = .next (s.failed 5 9 .badChar))

/-- R195, value side, and the same for a logo line (R223): where the encode succeeded, decode gives the text without the
spaces that end it. -/
def Obligations.TextRoundTrip : Prop :=
  ∀ (n k sp : Nat) (txt : List Byte) (s t : State), s.busy = false → TablesInImage s.cfg →
    s.ImageWf → s.cfg.settingsMap.logo1 + 16 ≤ 8192 → s.cfg.settingsMap.logo2 + 16 ≤ 8192 →
    (txt = [] ∨ byteAt txt (txt.length - 1) ≠ 0x20) →
    (exec (.nameEncode n (txt ++ List.replicate sp 0x20)) s = .next t → t.err = ⟨0, 0⟩ →
      exec (.nameDecode n) t = .next (t.answered (.bytes txt))) ∧
    (exec (.logoEncode k (txt ++ List.replicate sp 0x20)) s = .next t → t.err = ⟨0, 0⟩ →
      exec (.logoDecode k) t = .next (t.answered (.bytes txt)))

/-- R200, R201: FM entry `i` is the little-endian `u16` at `FM_BASE + 2*i`, read and written raw; a write changes those two
bytes alone and reads back; an index above 15 raises BAD_INDEX. -/
def Obligations.FmEntryReadWrite : Prop :=
  ∀ (i : Nat) (v : Half) (s : State), s.busy = false → s.cfg.fmBase + 32 ≤ 8192 → s.ImageWf →
    OpselIs 0x42 (.fmDecode i) ∧ OpselIs 0x43 (.fmEncode i v) ∧
    (i ≤ 15 → exec (.fmDecode i) s = .next (s.answered (.half (BitVec.ofNat 16
      ((s.rd (s.cfg.fmBase + 2 * i)).toNat + 256 * (s.rd (s.cfg.fmBase + 2 * i + 1)).toNat))))) ∧
    (i ≤ 15 → ∃ t, exec (.fmEncode i v) s = .next t ∧ t.StoredFrom s .done ∧
      t.BytesFrom s (s.cfg.fmBase + 2 * i) [BitVec.ofNat 8 v.toNat, BitVec.ofNat 8 (v.toNat / 256)] ∧
      exec (.fmDecode i) t = .next (t.answered (.half v))) ∧
    (15 < i → exec (.fmDecode i) s = .next (s.failed 5 10 .badIndex) ∧
      exec (.fmEncode i v) s = .next (s.failed 5 10 .badIndex))

/-- R202, R203, with R204 to R217 and R220: each of the fifteen names reads and writes, raw, the one byte that
`SETTINGS_MAP` gives it; no value is refused, no other byte changes; any other name raises BAD_FIELD. -/
def Obligations.SettingReadWrite : Prop :=
  ∀ (f : FieldName) (a : Nat) (v : Byte) (s : State), s.busy = false → s.ImageWf →
    OpselIs 0x44 (.setGet f) ∧ OpselIs 0x45 (.setPut f v) ∧
    ((f, a) ∈ settingTable s.cfg.settingsMap → a < 8192 →
      exec (.setGet f) s = .next (s.answered (.byte (s.rd a))) ∧
      ∃ t, exec (.setPut f v) s = .next t ∧ t.StoredFrom s .done ∧ t.BytesFrom s a [v]) ∧
    ((∀ p ∈ settingTable s.cfg.settingsMap, p.1 ≠ f) →
      exec (.setGet f) s = .next (s.failed 5 11 .badField) ∧ exec (.setPut f v) s = .next (s.failed 5 11 .badField))

/-- R221, R225: each name of `UNLOCK_FLAGS` reads and writes, raw, the one byte at its address; no value is refused, no other
byte changes; any other name raises BAD_FIELD. -/
def Obligations.UnlockReadWrite : Prop :=
  ∀ (g : FieldName) (a : Nat) (v : Byte) (s : State), s.busy = false → s.ImageWf →
    OpselIs 0x4A (.unlockGet g) ∧ OpselIs 0x4B (.unlockPut g v) ∧
    ((s.cfg.unlockFlags.map Prod.fst).Nodup → (g, a) ∈ s.cfg.unlockFlags → a < 8192 →
      exec (.unlockGet g) s = .next (s.answered (.byte (s.rd a))) ∧
      ∃ t, exec (.unlockPut g v) s = .next t ∧ t.StoredFrom s .done ∧ t.BytesFrom s a [v]) ∧
    ((∀ p ∈ s.cfg.unlockFlags, p.1 ≠ g) →
      exec (.unlockGet g) s = .next (s.failed 5 11 .badField) ∧ exec (.unlockPut g v) s = .next (s.failed 5 11 .badField))

/-- R219, R224: the password is the `PWD_LEN` bytes at its address, raw; a write of that length changes those bytes alone and
reads back; any other length raises BAD_NAME. -/
def Obligations.PasswordReadWrite : Prop :=
  ∀ (p : List Byte) (s : State), s.busy = false → s.cfg.settingsMap.password + s.cfg.pwdLen ≤ 8192 → s.ImageWf →
    OpselIs 0x48 .pwdGet ∧ OpselIs 0x49 (.pwdPut p) ∧
    exec .pwdGet s = .next (s.answered (.bytes (s.rdBytes s.cfg.settingsMap.password s.cfg.pwdLen))) ∧
    (p.length = s.cfg.pwdLen → ∃ t, exec (.pwdPut p) s = .next t ∧ t.StoredFrom s .done ∧
      t.BytesFrom s s.cfg.settingsMap.password p ∧ exec .pwdGet t = .next (t.answered (.bytes p))) ∧
    (p.length ≠ s.cfg.pwdLen → exec (.pwdPut p) s = .next (s.failed 5 8 .badName))

/-- R240, R43: `IMG.LOAD` stores its bytes from `a` on and changes no other; `IMG.STORE` answers the `n` bytes from `a` on;
past address 8191 either raises OOB and no byte moves. -/
def Obligations.ImageLoadStore : Prop :=
  ∀ (a n : Nat) (bs : List Byte) (s : State), s.busy = false → s.ImageWf →
    OpselIs 0x50 (.imgLoad a bs) ∧ OpselIs 0x51 (.imgStore a n) ∧
    (a + bs.length ≤ 8192 → ∃ t, exec (.imgLoad a bs) s = .next t ∧ t.StoredFrom s .done ∧ t.BytesFrom s a bs) ∧
    (8192 < a + bs.length → exec (.imgLoad a bs) s = .next (s.failed 5 2 .oob)) ∧
    (a + n ≤ 8192 → ∃ o, o.length = n ∧ (∀ i, i < n → byteAt o i = s.rd (a + i)) ∧
      exec (.imgStore a n) s = .next (s.answered (.bytes o))) ∧
    (8192 < a + n → exec (.imgStore a n) s = .next (s.failed 5 2 .oob))

/-- R231, R239: `XCV.SEND` appends to `TXQ` exactly the frame that `FRAME.BUILD` answers, or raises TOO_LONG with nothing
sent; `DRV.RESET` sends the reset command in that way and reads nothing. -/
def Obligations.SendAppendsOneFrame : Prop :=
  ∀ (cmd : List Byte) (s : State), s.busy = false →
    (cmd.length ≤ 255 → ∃ f t, exec (.frameBuild cmd) s = .next t ∧ t.out = .bytes f ∧
      exec (.xcvSend cmd) s = .next { t with txq := s.txq ++ f, out := .done }) ∧
    (255 < cmd.length → exec (.xcvSend cmd) s = .next (s.failed 5 1 .tooLong)) ∧
    (∃ f t, exec (.frameBuild s.cfg.resetCmd) s = .next t ∧ t.out = .bytes f ∧
      exec .drvReset s = .next { t with txq := s.txq ++ f, out := .done })

/-- R236: after up to four attempts that fail, each of which has the command sent again, the first reply that parses as a
frame ends `DRV.IDENTIFY` with its firmware string; one identify frame per attempt is sent, nothing is flushed. The failed
attempts are malformed replies, by header or by tail, that stand in `RXQ` before the good one; or any mixture of malformed
replies, replies cut short by a timeout, and timeouts on an empty line, that come in one by one. -/
def Obligations.IdentifySucceeds : Prop :=
  ∀ (r : Reply) (rest : List Byte) (s : State), s.busy = false → s.Buffers → r.1.length ≤ 255 →
    ∃ f d o, CommandFrame s .cmdIdent f ∧ XorsKey s.cfg r.1 d ∧ exec (.rspIdent d) s = .next (s.answered (.bytes o)) ∧
      (∀ bads : List (List Byte), bads.length ≤ 4 → (∀ b ∈ bads, ∃ i c, BadReply b i c) →
        s.rxq = bads.flatten ++ replyFrame r ++ rest →
        ∃ t, exec .drvIdentify s = .next t ∧
          t.Ended s (List.replicate (bads.length + 1) f).flatten rest ⟨0, 0⟩ (.bytes o)) ∧
      (∀ (tries : List (List Input)) (more : List Input), tries.length ≤ 4 → (∀ a ∈ tries, FailedAttempt a) → s.rxq = [] →
        s.inq = encode .drvIdentify :: (tries.flatten ++ .line (replyFrame r ++ rest) :: more) →
        ∃ t, Host.Core.run core (tries.flatten.length + 2) s = .next t ∧
          t.Ended { s with inq := more } (List.replicate (tries.length + 1) f).flatten rest ⟨0, 0⟩ (.bytes o))

/-- R236, R241, R242: five attempts that all fail end `DRV.IDENTIFY`, and a `SYNC.DOWNLOAD` or `SYNC.UPLOAD` that begins with
it, in IDENT_FAILED with five identify frames sent and no byte of the image changed: five malformed replies in `RXQ`, by
header or by tail; or any mixture of malformed replies, replies cut short by a timeout, and timeouts on an empty line.
That the inputs to come are then those of `afterRaise` is the MODEL's choice (log entry 35). -/
def Obligations.IdentifyFailsAfterFive : Prop :=
  ∀ (i : Instr) (s : State), i ∈ [Instr.drvIdentify, .syncDownload, .syncUpload] → s.busy = false → s.Buffers →
    ∃ f, CommandFrame s .cmdIdent f ∧
      (∀ (bads : List (List Byte)) (rest : List Byte), bads.length = 5 → (∀ b ∈ bads, ∃ k c, BadReply b k c) →
        s.rxq = bads.flatten ++ rest →
        ∃ t, exec i s = .next t ∧ t.Ended s (List.replicate 5 f).flatten rest ⟨2, 3⟩ (.error .identFailed)) ∧
      (∀ (tries : List (List Input)) (more : List Input), tries.length = 5 → (∀ a ∈ tries, FailedAttempt a) → s.rxq = [] →
        s.inq = encode i :: (tries.flatten ++ more) →
        ∃ t, Host.Core.run core (tries.flatten.length + 1) s = .next t ∧
          t.Ended { s with inq := afterRaise .identFailed more } (List.replicate 5 f).flatten [] ⟨2, 3⟩ (.error .identFailed))

/-- R237: `DRV.READ` sends one read frame and takes one reply: it answers the data, or raises SHORT_REPLY, or passes a
framing error on unchanged, BAD_HEAD, BAD_RSVD or BAD_TAIL; it touches no byte of the image. -/
def Obligations.DriverReadReply : Prop :=
  ∀ (offset : Half) (length : Byte) (rest : List Byte) (s : State), s.busy = false → s.Buffers →
    s.cfg.readPrefix.length + s.cfg.readPad.length + 7 ≤ 255 → ∃ f, CommandFrame s (.cmdRead offset length) f ∧
    (∀ r : Reply, r.1.length ≤ 255 → s.rxq = replyFrame r ++ rest →
      ∃ d t, XorsKey s.cfg r.1 d ∧ exec (.drvRead offset length) s = .next t ∧
        (length.toNat ≤ r.1.length - 8 → t.Ended s f rest ⟨0, 0⟩ (.bytes ((d.drop 8).take length.toNat))) ∧
        (r.1.length - 8 < length.toNat → t.Ended s f rest ⟨2, 1⟩ (.error .shortReply))) ∧
    (∀ (b : List Byte) (i : BitVec 8) (c : Cause), BadReply b i c → s.rxq = b ++ rest →
      ∃ t, exec (.drvRead offset length) s = .next t ∧ t.Ended s f rest ⟨1, i⟩ (.error c))

/-- R238: `DRV.WRITE` sends one write frame and takes one reply: it answers what `RSP.WRITE` says of it, or passes a framing
error on unchanged, BAD_HEAD, BAD_RSVD or BAD_TAIL; a command too long raises TOO_LONG with nothing sent. -/
def Obligations.DriverWriteReply : Prop :=
  ∀ (data : List Byte) (offset : Half) (rest : List Byte) (s : State), s.busy = false → s.Buffers → WfWire s.cfg →
    (255 < s.cfg.wpLen + 8 + data.length → exec (.drvWrite data offset) s = .next (s.failed 5 1 .tooLong)) ∧
    (s.cfg.wpLen + 8 + data.length ≤ 255 → ∃ f, CommandFrame s (.cmdWrite data offset) f ∧
      (∀ r : Reply, r.1.length ≤ 255 → s.rxq = replyFrame r ++ rest →
        ∃ d b t, XorsKey s.cfg r.1 d ∧ (b = true ↔ Acknowledges s.cfg d offset.toNat) ∧
          exec (.drvWrite data offset) s = .next t ∧ t.Ended s f rest ⟨0, 0⟩ (.bool b)) ∧
      (∀ (b : List Byte) (i : BitVec 8) (c : Cause), BadReply b i c → s.rxq = b ++ rest →
        ∃ t, exec (.drvWrite data offset) s = .next t ∧ t.Ended s f rest ⟨1, i⟩ (.error c)))

/-- R265, R237, R238: a timeout in any stage of the reply of a driver read or write, also inside a download or an upload, is
raised as ProtocolError(TIMEOUT); no byte of the image changes and nothing more is sent. That the inputs to come are
then those of `afterRaise` is the MODEL's choice (log entry 35). -/
def Obligations.DriverTimeoutRelabelled : Prop :=
  ∀ (more : List Input) (s : State), s.inq = .timeout :: more → s.rxs ≠ .idle →
    (∃ l off k buf fw, s.seq = .read l ∨ s.seq = .write off ∨ s.seq = .download k buf fw ∨ s.seq = .upload k) →
    step s = .next { s with inq := afterRaise .protoTimeout more, err := ⟨2, 2⟩, rxs := .idle, cnt := 0, busy := false,
                            seq := .ret, out := .error .protoTimeout }

/-- R241: where the line holds an identify reply and 64 read replies of at least 128 data bytes, `SYNC.DOWNLOAD` sends the
identify frame and the 64 read frames at offsets 0, 128, ..., 8064 in that order, and the image is then, all 8192 bytes, the
data of the replies in that order; the firmware string is answered. -/
def Obligations.DownloadReplacesImage : Prop :=
  ∀ (r0 : Reply) (rs : List Reply) (rest : List Byte) (s : State), s.busy = false → s.Buffers → s.ImageWf → WfWire s.cfg →
    r0.1.length ≤ 255 → rs.length = 64 → (∀ r ∈ rs, 136 ≤ r.1.length ∧ r.1.length ≤ 255) →
    s.rxq = replyFrame r0 ++ (rs.map replyFrame).flatten ++ rest →
    ∃ (fi : List Byte) (fs : List (List Byte)) (d fw : List Byte) (t : State), CommandFrame s .cmdIdent fi ∧ fs.length = 64 ∧
      (∀ k, k < 64 → CommandFrame s (.cmdRead (BitVec.ofNat 16 (128 * k)) 128) (fs.getD k [])) ∧
      XorsKey s.cfg r0.1 d ∧ exec (.rspIdent d) s = .next (s.answered (.bytes fw)) ∧
      exec .syncDownload s = .next t ∧ t.EndedStoring s (fi ++ fs.flatten) rest ⟨0, 0⟩ (.synced fw) ∧
      ∀ k j, k < 64 → j < 128 →
        t.rd (128 * k + j) = byteAt (rs.getD k ([], 0, 0)).1 (8 + j) ^^^ byteAt s.cfg.key ((8 + j) % 16)

/-- R242: where the line holds an identify reply and 58 acknowledgements, `SYNC.UPLOAD` sends the identify frame, the write
frames of the blocks of the image at 0, 128, ..., 7296 in that order, and one reset frame; the image is not changed. -/
def Obligations.UploadSendsPrefix : Prop :=
  ∀ (r0 : Reply) (rs : List Reply) (rest : List Byte) (s : State), s.busy = false → s.Buffers → WfWire s.cfg →
    s.cfg.wpLen + 136 ≤ 255 → r0.1.length ≤ 255 → rs.length = 58 → (∀ r ∈ rs, r.1.length ≤ 255) →
    (∀ k, k < 58 → ∃ d, XorsKey s.cfg (rs.getD k ([], 0, 0)).1 d ∧ Acknowledges s.cfg d (128 * k)) →
    s.rxq = replyFrame r0 ++ (rs.map replyFrame).flatten ++ rest →
    ∃ (fi : List Byte) (fs : List (List Byte)) (fr : List Byte) (t : State), CommandFrame s .cmdIdent fi ∧ fs.length = 58 ∧
      (∀ k, k < 58 →
        CommandFrame s (.cmdWrite (s.rdBytes (128 * k) 128) (BitVec.ofNat 16 (128 * k))) (fs.getD k [])) ∧
      CommandFrame s .cmdReset fr ∧
      exec .syncUpload s = .next t ∧ t.Ended s (fi ++ fs.flatten ++ fr) rest ⟨0, 0⟩ .done

/-- R241, R242, R243, R265: the first block reply that fails ends a download or an upload, with no further command sent, no
reset either, and the image not changed: a short read reply with SHORT_REPLY, a write reply that does not acknowledge with
WRITE_NAK, and in both a malformed reply with its framing error unchanged. (A timeout: `DriverTimeoutRelabelled`; a failed
identify: `IdentifyFailsAfterFive`.) -/
def Obligations.SyncStopsAtFirstFailure : Prop :=
  ∀ (r0 : Reply) (rs : List Reply) (bad rest : List Byte) (e : ErrReg) (c : Cause) (s : State), s.busy = false → s.Buffers →
    WfWire s.cfg → r0.1.length ≤ 255 → s.rxq = replyFrame r0 ++ (rs.map replyFrame).flatten ++ bad ++ rest →
    (rs.length < 64 → (∀ r ∈ rs, 136 ≤ r.1.length ∧ r.1.length ≤ 255) →
      ((∃ r : Reply, bad = replyFrame r ∧ r.1.length < 136 ∧ e = ⟨2, 1⟩ ∧ c = .shortReply) ∨
        (∃ i, BadReply bad i c ∧ e = ⟨1, i⟩)) →
      ∃ (fi : List Byte) (fs : List (List Byte)) (t : State), CommandFrame s .cmdIdent fi ∧ fs.length = rs.length + 1 ∧
        (∀ k, k ≤ rs.length → CommandFrame s (.cmdRead (BitVec.ofNat 16 (128 * k)) 128) (fs.getD k [])) ∧
        exec .syncDownload s = .next t ∧ t.Ended s (fi ++ fs.flatten) rest e (.error c)) ∧
    (s.cfg.wpLen + 136 ≤ 255 → rs.length < 58 → (∀ r ∈ rs, r.1.length ≤ 255) →
      (∀ k, k < rs.length → ∃ d, XorsKey s.cfg (rs.getD k ([], 0, 0)).1 d ∧ Acknowledges s.cfg d (128 * k)) →
      ((∃ (r : Reply) (d : List Byte), bad = replyFrame r ∧ r.1.length ≤ 255 ∧ XorsKey s.cfg r.1 d ∧
          ¬ Acknowledges s.cfg d (128 * rs.length) ∧ e = ⟨2, 4⟩ ∧ c = .writeNak) ∨
        (∃ i, BadReply bad i c ∧ e = ⟨1, i⟩)) →
      ∃ (fi : List Byte) (fs : List (List Byte)) (t : State), CommandFrame s .cmdIdent fi ∧ fs.length = rs.length + 1 ∧
        (∀ k, k ≤ rs.length →
          CommandFrame s (.cmdWrite (s.rdBytes (128 * k) 128) (BitVec.ofNat 16 (128 * k))) (fs.getD k [])) ∧
        exec .syncUpload s = .next t ∧ t.Ended s (fi ++ fs.flatten) rest e (.error c))

/-- MODEL's choice (log entry 10), from R63, R64, R117, R119: the rows `W-FRAME.header` and `W-FRAME.trailer` are the arrival
of those four bytes. On an idle block they wait in `RXQ`; a reception at the start of its header stage takes the header,
and a plain reception at the start of its trailer stage takes the trailer and ends with the payload. -/
def Obligations.FramePartsArrive : Prop :=
  ∀ (l k0 k1 : Byte) (s : State),
    (s.rxs = .idle → exec (.wFrameHeader l) s = .next { s with rxq := s.rxq ++ [0xAB, 0xCD, l, 0x00] } ∧
      exec (.wFrameTrailer k0 k1) s = .next { s with rxq := s.rxq ++ [k0, k1, 0xDC, 0xBA] }) ∧
    (s.rxs = .hdr → s.cnt = 0 → s.rxq = [] → s.Buffers →
      exec (.wFrameHeader l) s = .next { s with hb := [0xAB, 0xCD, l, 0x00], len := l, cnt := 0,
                                                rxs := if l = 0 then .trl else .pay }) ∧
    (s.rxs = .trl → s.cnt = 0 → s.rxq = [] → s.Buffers → s.seq = .ret →
      ∃ o, XorsKey s.cfg (s.rxb.take s.len.toNat) o ∧
        exec (.wFrameTrailer k0 k1) s = .next { s with tb := [k0, k1, 0xDC, 0xBA], ki := BitVec.ofNat 4 s.len.toNat,
                                                       err := ⟨0, 0⟩, rxs := .idle, cnt := 0, busy := false,
                                                       out := .bytes o })

/-- MODEL's choice (log entry 11), from R68, R76, R77, R78: a record row answers what its bytes say, as the decode operation
of that record does, and changes nothing else. -/
def Obligations.RecordRowsAnswer : Prop :=
  ∀ s : State,
    (∀ freq offset rxcode txcode codeFlag flagsA flagsB dtmfFlags step scrambler, ∃ v,
      exec (.mChanRecord freq offset rxcode txcode codeFlag flagsA flagsB dtmfFlags step scrambler) s =
        .next { s with out := .channel v } ∧
      ∀ (n : Nat) (s' : State), s'.busy = false → s'.cfg = s.cfg → TablesInImage s.cfg → 1 ≤ n → n ≤ 214 →
        s'.rdBytes (s.cfg.chBase + 16 * (n - 1)) 16 =
          [BitVec.ofNat 8 freq.toNat, BitVec.ofNat 8 (freq.toNat / 256), BitVec.ofNat 8 (freq.toNat / 65536),
           BitVec.ofNat 8 (freq.toNat / 16777216), BitVec.ofNat 8 offset.toNat, BitVec.ofNat 8 (offset.toNat / 256),
           BitVec.ofNat 8 (offset.toNat / 65536), BitVec.ofNat 8 (offset.toNat / 16777216), rxcode, txcode, codeFlag,
           flagsA, flagsB, dtmfFlags, step, scrambler] →
        exec (.chDecode n) s' = .next (s'.answered (.channel v))) ∧
    (∀ text, text.length = 16 → ∃ o, IsTextOf o text ∧ exec (.mNameRecord text) s = .next { s with out := .bytes o }) ∧
    (∀ v, exec (.mFmEntry v) s = .next { s with out := .half v }) ∧
    (∀ f v, exec (.mSetFields (.byteField f v)) s = .next { s with out := .byte v }) ∧
    (∀ line, line.length = 16 → ∃ o, IsTextOf o (line.take 12) ∧
      exec (.mSetFields (.logo1 line)) s = .next { s with out := .bytes o } ∧
      exec (.mSetFields (.logo2 line)) s = .next { s with out := .bytes o }) ∧
    (∀ p, exec (.mSetFields (.password p)) s = .next { s with out := .bytes p }) ∧
    (∀ g v, exec (.mSetFields (.unlock g v)) s = .next { s with out := .byte v })

/-- A step takes the first input; where it decodes to a well-formed instruction, the step is `exec` of it. R246, R83: where
an operation of the program raised in it, what is to come is all of it if the program handles the error, and else what the
environment does, with no line of the program left; a handler that comes up by itself does nothing. With no input the
machine stays as it is; bytes on an idle line are delivered. That inputs come from a list is the MODEL's choice (log entry
5), and so is how the lines of a program and their handlers stand in it (log entry 35). -/
def Obligations.StepRunsDecoded : Prop :=
  (∀ (inp : Input) (more : List Input) (i : Instr) (s : State), s.inq = inp :: more → decode inp = .ok i →
    i.wellFormed = true → ∃ u, exec i { s with inq := more } = .next u ∧
      (∀ c, RaisedBy inp s u c → step s = .next { u with inq := afterRaise c more }) ∧
      ((∀ c, ¬ RaisedBy inp s u c) → step s = .next u ∧ u.inq = more)) ∧
  (∀ (c : Cause) (more : List Input), (HandledBy c more → afterRaise c more = more) ∧
    (¬ HandledBy c more → afterRaise c more = more.filter fun x => !inProgram x)) ∧
  (∀ (k : ErrorKind) (a : HandlerAction) (more : List Input) (s : State), s.inq = .onError k a :: more →
    step s = .next { s with inq := more }) ∧
  (∀ s : State, s.inq = [] → step s = .next s) ∧
  (∀ (bs : List Byte) (more : List Input) (s : State), s.inq = .line bs :: more → s.rxs = .idle →
    step s = .next { s with inq := more, rxq := s.rxq ++ bs })

/-- R81, R82, R60 with the operand lines of log entry 6: every well-formed instruction is what its encoding decodes to. -/
def Obligations.DecodeOfEncode : Prop := ∀ i : Instr, i.wellFormed = true → decode (encode i) = .ok i

/-- R63, R64: the header and trailer patterns, on the big-endian number of the four bytes; and words written out from R81,
R68, R77 decode to the rows they stand for. How the bits of a table row are laid out in bytes, in the 8, 16, 32 and 128-bit
words alike, is the MODEL's choice (log entry 6). -/
def Obligations.WordPatterns : Prop :=
  (∀ (w : BitVec 32) (l : Byte), decodeTableWord 32 w.toNat = some (.wFrameHeader l) ↔
    w &&& 0xFFFF00FF#32 = 0xABCD0000#32 ∧ l = w.extractLsb' 8 8) ∧
  (∀ (w : BitVec 32) (k0 k1 : Byte), decodeTableWord 32 w.toNat = some (.wFrameTrailer k0 k1) ↔
    w &&& 0x0000FFFF#32 = 0x0000DCBA#32 ∧ k0 = w.extractLsb' 24 8 ∧ k1 = w.extractLsb' 16 8) ∧
  decodeTableWord 8 0x11 = some .frameParse ∧ decodeTableWord 8 0x48 = some .pwdGet ∧ decodeTableWord 8 0x03 = none ∧
  decodeTableWord 16 0x036C = some (.mFmEntry 0x036C) ∧
  decodeTableWord 128 0x000A030A023103080000EA6000DE03F0 =
    some (.mChanRecord 0x00DE03F0 0x0000EA60 0x08 0x03 0x31 0x02 0x0A 0x03 0x0A 0x00)

/-- R40, R43: from every state whose image is in canonical form (addresses 0 to 8191, each listed once), every step leads to
such a state; no step writes a parameter or a constant table (R22), and what is on `TXQ` stays there (R12). -/
def Obligations.StepKeepsImageForm : Prop :=
  ∀ s t : State, s.ImageWf → step s = .next t → t.ImageWf ∧ t.cfg = s.cfg ∧ ∃ sent, t.txq = s.txq ++ sent

/-- R16, R18, R21, R13, R236, R241, R242: from every state in which sequencer, `CNT` and `BUSY` agree, the buffers have their
sizes, bit 16 of `CRC` is 0 and the host sequence is at a place its rule has, every step leads to such a state. -/
def Obligations.StepKeepsSequencer : Prop :=
  ∀ s t : State, s.SequencerWf → s.RegistersWf → s.seq.Legal → step s = .next t →
    t.SequencerWf ∧ t.RegistersWf ∧ t.seq.Legal

/-- R20, R251: `ERR` holds only kinds and sub-codes of the table, kinds 6 and 7 never and `(5, 12)` never: every step keeps
it so. -/
def Obligations.StepKeepsStatus : Prop := ∀ s t : State, s.StatusWf → step s = .next t → t.StatusWf

/-- R264, R250: a step after which any byte of the image is not what it was has ended an operation with success: an
operation that raises, or goes on waiting, changes no byte. -/
def Obligations.ImageChangesOnlyOnSuccess : Prop :=
  ∀ s t : State, step s = .next t → t.img ≠ s.img →
    t.err = ⟨0, 0⟩ ∧ t.busy = false ∧ (t.out = .done ∨ ∃ fw, t.out = .synced fw)

/-- R280: what reset leaves, as the rule gives it; and the invariants of the statements above hold there, which for the image
form, the buffers, `CRC` and the host sequence rests on the MODEL's choices of log entries 1, 2 and 15. -/
def Obligations.ResetState : Prop :=
  (State.reset.err = ⟨0, 0⟩ ∧ State.reset.busy = false ∧ State.reset.rxs = .idle ∧ State.reset.cnt = 0 ∧
    State.reset.txq = []) ∧
  State.reset.ImageWf ∧ State.reset.SequencerWf ∧ State.reset.RegistersWf ∧ State.reset.seq.Legal ∧ State.reset.StatusWf
end

