-- ==== Sys2Proof/Laws/State.lean ====
section
/-! SUPPORT. One lemma per field of the state and named update, all by `rfl`, so that later proofs unfold no record update, and
the lengths of the parameters. -/

namespace Sys2Proof.Machine

set_option Elab.async false

@[simp] theorem finish_img (s : State) (e : ErrReg) : (s.finish e).img = s.img := rfl
@[simp] theorem finish_err (s : State) (e : ErrReg) : (s.finish e).err = e := rfl
@[simp] theorem finish_busy (s : State) (e : ErrReg) : (s.finish e).busy = false := rfl
@[simp] theorem finish_crc (s : State) (e : ErrReg) : (s.finish e).crc = s.crc := rfl
@[simp] theorem finish_ki (s : State) (e : ErrReg) : (s.finish e).ki = s.ki := rfl
@[simp] theorem finish_len (s : State) (e : ErrReg) : (s.finish e).len = s.len := rfl
@[simp] theorem finish_cnt (s : State) (e : ErrReg) : (s.finish e).cnt = 0 := rfl
@[simp] theorem finish_hb (s : State) (e : ErrReg) : (s.finish e).hb = s.hb := rfl
@[simp] theorem finish_tb (s : State) (e : ErrReg) : (s.finish e).tb = s.tb := rfl
@[simp] theorem finish_rxb (s : State) (e : ErrReg) : (s.finish e).rxb = s.rxb := rfl
@[simp] theorem finish_rxs (s : State) (e : ErrReg) : (s.finish e).rxs = .idle := rfl
@[simp] theorem finish_txq (s : State) (e : ErrReg) : (s.finish e).txq = s.txq := rfl
@[simp] theorem finish_rxq (s : State) (e : ErrReg) : (s.finish e).rxq = s.rxq := rfl
@[simp] theorem finish_cfg (s : State) (e : ErrReg) : (s.finish e).cfg = s.cfg := rfl
@[simp] theorem finish_seq (s : State) (e : ErrReg) : (s.finish e).seq = s.seq := rfl
@[simp] theorem finish_out (s : State) (e : ErrReg) : (s.finish e).out = s.out := rfl
@[simp] theorem finish_inq (s : State) (e : ErrReg) : (s.finish e).inq = s.inq := rfl

@[simp] theorem raise_img (s : State) (c : Cause) : (s.raise c).img = s.img := rfl
@[simp] theorem raise_err (s : State) (c : Cause) : (s.raise c).err = c.errReg := rfl
@[simp] theorem raise_busy (s : State) (c : Cause) : (s.raise c).busy = false := rfl
@[simp] theorem raise_crc (s : State) (c : Cause) : (s.raise c).crc = s.crc := rfl
@[simp] theorem raise_ki (s : State) (c : Cause) : (s.raise c).ki = s.ki := rfl
@[simp] theorem raise_len (s : State) (c : Cause) : (s.raise c).len = s.len := rfl
@[simp] theorem raise_cnt (s : State) (c : Cause) : (s.raise c).cnt = 0 := rfl
@[simp] theorem raise_hb (s : State) (c : Cause) : (s.raise c).hb = s.hb := rfl
@[simp] theorem raise_tb (s : State) (c : Cause) : (s.raise c).tb = s.tb := rfl
@[simp] theorem raise_rxb (s : State) (c : Cause) : (s.raise c).rxb = s.rxb := rfl
@[simp] theorem raise_rxs (s : State) (c : Cause) : (s.raise c).rxs = .idle := rfl
@[simp] theorem raise_txq (s : State) (c : Cause) : (s.raise c).txq = s.txq := rfl
@[simp] theorem raise_rxq (s : State) (c : Cause) : (s.raise c).rxq = s.rxq := rfl
@[simp] theorem raise_cfg (s : State) (c : Cause) : (s.raise c).cfg = s.cfg := rfl
@[simp] theorem raise_seq (s : State) (c : Cause) : (s.raise c).seq = s.seq := rfl
@[simp] theorem raise_out (s : State) (c : Cause) : (s.raise c).out = .error c := rfl
@[simp] theorem raise_inq (s : State) (c : Cause) : (s.raise c).inq = s.inq := rfl

@[simp] theorem succeed_img (s : State) (r : Result) : (s.succeed r).img = s.img := rfl
@[simp] theorem succeed_err (s : State) (r : Result) : (s.succeed r).err = ErrReg.ok := rfl
@[simp] theorem succeed_busy (s : State) (r : Result) : (s.succeed r).busy = false := rfl
@[simp] theorem succeed_crc (s : State) (r : Result) : (s.succeed r).crc = s.crc := rfl
@[simp] theorem succeed_ki (s : State) (r : Result) : (s.succeed r).ki = s.ki := rfl
@[simp] theorem succeed_len (s : State) (r : Result) : (s.succeed r).len = s.len := rfl
@[simp] theorem succeed_cnt (s : State) (r : Result) : (s.succeed r).cnt = s.cnt := rfl
@[simp] theorem succeed_hb (s : State) (r : Result) : (s.succeed r).hb = s.hb := rfl
@[simp] theorem succeed_tb (s : State) (r : Result) : (s.succeed r).tb = s.tb := rfl
@[simp] theorem succeed_rxb (s : State) (r : Result) : (s.succeed r).rxb = s.rxb := rfl
@[simp] theorem succeed_rxs (s : State) (r : Result) : (s.succeed r).rxs = s.rxs := rfl
@[simp] theorem succeed_txq (s : State) (r : Result) : (s.succeed r).txq = s.txq := rfl
@[simp] theorem succeed_rxq (s : State) (r : Result) : (s.succeed r).rxq = s.rxq := rfl
@[simp] theorem succeed_cfg (s : State) (r : Result) : (s.succeed r).cfg = s.cfg := rfl
@[simp] theorem succeed_seq (s : State) (r : Result) : (s.succeed r).seq = s.seq := rfl
@[simp] theorem succeed_out (s : State) (r : Result) : (s.succeed r).out = r := rfl
@[simp] theorem succeed_inq (s : State) (r : Result) : (s.succeed r).inq = s.inq := rfl

@[simp] theorem refuseIssue_img (s : State) : (s.refuseIssue).img = s.img := rfl
@[simp] theorem refuseIssue_err (s : State) : (s.refuseIssue).err = s.err := rfl
@[simp] theorem refuseIssue_busy (s : State) : (s.refuseIssue).busy = s.busy := rfl
@[simp] theorem refuseIssue_crc (s : State) : (s.refuseIssue).crc = s.crc := rfl
@[simp] theorem refuseIssue_ki (s : State) : (s.refuseIssue).ki = s.ki := rfl
@[simp] theorem refuseIssue_len (s : State) : (s.refuseIssue).len = s.len := rfl
@[simp] theorem refuseIssue_cnt (s : State) : (s.refuseIssue).cnt = s.cnt := rfl
@[simp] theorem refuseIssue_hb (s : State) : (s.refuseIssue).hb = s.hb := rfl
@[simp] theorem refuseIssue_tb (s : State) : (s.refuseIssue).tb = s.tb := rfl
@[simp] theorem refuseIssue_rxb (s : State) : (s.refuseIssue).rxb = s.rxb := rfl
@[simp] theorem refuseIssue_rxs (s : State) : (s.refuseIssue).rxs = s.rxs := rfl
@[simp] theorem refuseIssue_txq (s : State) : (s.refuseIssue).txq = s.txq := rfl
@[simp] theorem refuseIssue_rxq (s : State) : (s.refuseIssue).rxq = s.rxq := rfl
@[simp] theorem refuseIssue_cfg (s : State) : (s.refuseIssue).cfg = s.cfg := rfl
@[simp] theorem refuseIssue_seq (s : State) : (s.refuseIssue).seq = s.seq := rfl
@[simp] theorem refuseIssue_out (s : State) : (s.refuseIssue).out = .error .busy := rfl
@[simp] theorem refuseIssue_inq (s : State) : (s.refuseIssue).inq = s.inq := rfl

@[simp] theorem txWrite_img (s : State) (f : List Byte) : (s.txWrite f).img = s.img := rfl
@[simp] theorem txWrite_err (s : State) (f : List Byte) : (s.txWrite f).err = s.err := rfl
@[simp] theorem txWrite_busy (s : State) (f : List Byte) : (s.txWrite f).busy = s.busy := rfl
@[simp] theorem txWrite_crc (s : State) (f : List Byte) : (s.txWrite f).crc = s.crc := rfl
@[simp] theorem txWrite_ki (s : State) (f : List Byte) : (s.txWrite f).ki = s.ki := rfl
@[simp] theorem txWrite_len (s : State) (f : List Byte) : (s.txWrite f).len = s.len := rfl
@[simp] theorem txWrite_cnt (s : State) (f : List Byte) : (s.txWrite f).cnt = s.cnt := rfl
@[simp] theorem txWrite_hb (s : State) (f : List Byte) : (s.txWrite f).hb = s.hb := rfl
@[simp] theorem txWrite_tb (s : State) (f : List Byte) : (s.txWrite f).tb = s.tb := rfl
@[simp] theorem txWrite_rxb (s : State) (f : List Byte) : (s.txWrite f).rxb = s.rxb := rfl
@[simp] theorem txWrite_rxs (s : State) (f : List Byte) : (s.txWrite f).rxs = s.rxs := rfl
@[simp] theorem txWrite_txq (s : State) (f : List Byte) : (s.txWrite f).txq = s.txq ++ f := rfl
@[simp] theorem txWrite_rxq (s : State) (f : List Byte) : (s.txWrite f).rxq = s.rxq := rfl
@[simp] theorem txWrite_cfg (s : State) (f : List Byte) : (s.txWrite f).cfg = s.cfg := rfl
@[simp] theorem txWrite_seq (s : State) (f : List Byte) : (s.txWrite f).seq = s.seq := rfl
@[simp] theorem txWrite_out (s : State) (f : List Byte) : (s.txWrite f).out = s.out := rfl
@[simp] theorem txWrite_inq (s : State) (f : List Byte) : (s.txWrite f).inq = s.inq := rfl

@[simp] theorem startParse_img (s : State) (q : HostSeq) : (s.startParse q).img = s.img := rfl
@[simp] theorem startParse_err (s : State) (q : HostSeq) : (s.startParse q).err = s.err := rfl
@[simp] theorem startParse_busy (s : State) (q : HostSeq) : (s.startParse q).busy = true := rfl
@[simp] theorem startParse_crc (s : State) (q : HostSeq) : (s.startParse q).crc = s.crc := rfl
@[simp] theorem startParse_ki (s : State) (q : HostSeq) : (s.startParse q).ki = s.ki := rfl
@[simp] theorem startParse_len (s : State) (q : HostSeq) : (s.startParse q).len = s.len := rfl
@[simp] theorem startParse_cnt (s : State) (q : HostSeq) : (s.startParse q).cnt = 0 := rfl
@[simp] theorem startParse_hb (s : State) (q : HostSeq) : (s.startParse q).hb = s.hb := rfl
@[simp] theorem startParse_tb (s : State) (q : HostSeq) : (s.startParse q).tb = s.tb := rfl
@[simp] theorem startParse_rxb (s : State) (q : HostSeq) : (s.startParse q).rxb = s.rxb := rfl
@[simp] theorem startParse_rxs (s : State) (q : HostSeq) : (s.startParse q).rxs = .hdr := rfl
@[simp] theorem startParse_txq (s : State) (q : HostSeq) : (s.startParse q).txq = s.txq := rfl
@[simp] theorem startParse_rxq (s : State) (q : HostSeq) : (s.startParse q).rxq = s.rxq := rfl
@[simp] theorem startParse_cfg (s : State) (q : HostSeq) : (s.startParse q).cfg = s.cfg := rfl
@[simp] theorem startParse_seq (s : State) (q : HostSeq) : (s.startParse q).seq = q := rfl
@[simp] theorem startParse_out (s : State) (q : HostSeq) : (s.startParse q).out = s.out := rfl
@[simp] theorem startParse_inq (s : State) (q : HostSeq) : (s.startParse q).inq = s.inq := rfl

@[simp] theorem wrBytes_img (s : State) (a : Nat) (bs : List Byte) : (s.wrBytes a bs).img = Memory.setBytes s.cfg.startImage s.img a bs := rfl
@[simp] theorem wrBytes_err (s : State) (a : Nat) (bs : List Byte) : (s.wrBytes a bs).err = s.err := rfl
@[simp] theorem wrBytes_busy (s : State) (a : Nat) (bs : List Byte) : (s.wrBytes a bs).busy = s.busy := rfl
@[simp] theorem wrBytes_crc (s : State) (a : Nat) (bs : List Byte) : (s.wrBytes a bs).crc = s.crc := rfl
@[simp] theorem wrBytes_ki (s : State) (a : Nat) (bs : List Byte) : (s.wrBytes a bs).ki = s.ki := rfl
@[simp] theorem wrBytes_len (s : State) (a : Nat) (bs : List Byte) : (s.wrBytes a bs).len = s.len := rfl
@[simp] theorem wrBytes_cnt (s : State) (a : Nat) (bs : List Byte) : (s.wrBytes a bs).cnt = s.cnt := rfl
@[simp] theorem wrBytes_hb (s : State) (a : Nat) (bs : List Byte) : (s.wrBytes a bs).hb = s.hb := rfl
@[simp] theorem wrBytes_tb (s : State) (a : Nat) (bs : List Byte) : (s.wrBytes a bs).tb = s.tb := rfl
@[simp] theorem wrBytes_rxb (s : State) (a : Nat) (bs : List Byte) : (s.wrBytes a bs).rxb = s.rxb := rfl
@[simp] theorem wrBytes_rxs (s : State) (a : Nat) (bs : List Byte) : (s.wrBytes a bs).rxs = s.rxs := rfl
@[simp] theorem wrBytes_txq (s : State) (a : Nat) (bs : List Byte) : (s.wrBytes a bs).txq = s.txq := rfl
@[simp] theorem wrBytes_rxq (s : State) (a : Nat) (bs : List Byte) : (s.wrBytes a bs).rxq = s.rxq := rfl
@[simp] theorem wrBytes_cfg (s : State) (a : Nat) (bs : List Byte) : (s.wrBytes a bs).cfg = s.cfg := rfl
@[simp] theorem wrBytes_seq (s : State) (a : Nat) (bs : List Byte) : (s.wrBytes a bs).seq = s.seq := rfl
@[simp] theorem wrBytes_out (s : State) (a : Nat) (bs : List Byte) : (s.wrBytes a bs).out = s.out := rfl
@[simp] theorem wrBytes_inq (s : State) (a : Nat) (bs : List Byte) : (s.wrBytes a bs).inq = s.inq := rfl

@[simp] theorem obf_img (s : State) (bs : List Byte) : (s.obf bs).1.img = s.img := rfl
@[simp] theorem obf_err (s : State) (bs : List Byte) : (s.obf bs).1.err = s.err := rfl
@[simp] theorem obf_busy (s : State) (bs : List Byte) : (s.obf bs).1.busy = s.busy := rfl
@[simp] theorem obf_crc (s : State) (bs : List Byte) : (s.obf bs).1.crc = s.crc := rfl
@[simp] theorem obf_ki (s : State) (bs : List Byte) : (s.obf bs).1.ki = obfIndex 0 bs := rfl
@[simp] theorem obf_len (s : State) (bs : List Byte) : (s.obf bs).1.len = s.len := rfl
@[simp] theorem obf_cnt (s : State) (bs : List Byte) : (s.obf bs).1.cnt = s.cnt := rfl
@[simp] theorem obf_hb (s : State) (bs : List Byte) : (s.obf bs).1.hb = s.hb := rfl
@[simp] theorem obf_tb (s : State) (bs : List Byte) : (s.obf bs).1.tb = s.tb := rfl
@[simp] theorem obf_rxb (s : State) (bs : List Byte) : (s.obf bs).1.rxb = s.rxb := rfl
@[simp] theorem obf_rxs (s : State) (bs : List Byte) : (s.obf bs).1.rxs = s.rxs := rfl
@[simp] theorem obf_txq (s : State) (bs : List Byte) : (s.obf bs).1.txq = s.txq := rfl
@[simp] theorem obf_rxq (s : State) (bs : List Byte) : (s.obf bs).1.rxq = s.rxq := rfl
@[simp] theorem obf_cfg (s : State) (bs : List Byte) : (s.obf bs).1.cfg = s.cfg := rfl
@[simp] theorem obf_seq (s : State) (bs : List Byte) : (s.obf bs).1.seq = s.seq := rfl
@[simp] theorem obf_out (s : State) (bs : List Byte) : (s.obf bs).1.out = s.out := rfl
@[simp] theorem obf_inq (s : State) (bs : List Byte) : (s.obf bs).1.inq = s.inq := rfl

@[simp] theorem obf_snd (s : State) (bs : List Byte) : (s.obf bs).2 = obfBytes s.cfg.key 0 bs := rfl

/-! The lengths that 00_scope.md R7 gives the parameters, read off their types. -/

@[simp] theorem key_length (c : Config) : c.key.length = 16 := by simp [Config.key]
@[simp] theorem identPrefix_length (c : Config) : c.identPrefix.length = 4 := Vector.length_toList
@[simp] theorem resetCmd_length (c : Config) : c.resetCmd.length = 4 := by simp [Config.resetCmd]
@[simp] theorem ctcss_length (c : Config) : c.ctcss.length = 50 := by simp [Config.ctcss]
@[simp] theorem step_length (c : Config) : c.step.length = c.stepTop.val + 1 := by simp [Config.step]
@[simp] theorem writePrefix_length (c : Config) : c.writePrefix.length = 256 := by simp [Config.writePrefix]
/-- R136: every write prefix has `WP_LEN` bytes. -/
theorem writePrefix_getElem_length (c : Config) (d : Nat) (h : d < c.writePrefix.length) :
    (c.writePrefix[d]).length = c.wpLen := by simp [Config.writePrefix]
theorem namePadWidth_le (c : Config) : c.namePadWidth ≤ 16 := Nat.le_of_lt_succ c.namePad.isLt

end Sys2Proof.Machine
end

