-- ==== Sys2Proof/Laws/Memory.lean ====
section
/-! SUPPORT. The image: what a read after a write gives, and that every operation over it keeps the canonical form. -/

namespace Sys2Proof.Machine

set_option Elab.async false

/-- Below the first admitted address nothing is listed. -/
theorem get_below {base : List Byte} {m : Memory} {lo x : Nat} (h : Memory.wfFrom base lo m = true) (hx : x < lo) :
    Memory.get base m x = imgDefault base x := by
  cases m with
  | nil => rfl
  | cons c m =>
    obtain ⟨y, v⟩ := c
    simp only [Memory.wfFrom, Bool.and_eq_true, decide_eq_true_eq] at h
    have h1 : x ≠ y := by omega
    have h2 : x < y := by omega
    simp [Memory.get, h1, h2]

theorem wfFrom_mono {base : List Byte} {m : Memory} {lo lo' : Nat} (h : Memory.wfFrom base lo m = true) (hl : lo' ≤ lo) :
    Memory.wfFrom base lo' m = true := by
  cases m with
  | nil => rfl
  | cons c m =>
    obtain ⟨y, v⟩ := c
    simp only [Memory.wfFrom, Bool.and_eq_true, decide_eq_true_eq] at h ⊢
    exact ⟨⟨⟨by omega, h.1.1.2⟩, h.1.2⟩, h.2⟩

/-- A read after a one-byte write: the byte written there, every other byte as it was. -/
theorem get_set {base : List Byte} {m : Memory} {lo : Nat} (h : Memory.wfFrom base lo m = true) (a x : Nat) (b : Byte) :
    Memory.get base (Memory.set base m a b) x = if x = a then b else Memory.get base m x := by
  induction m generalizing lo with
  | nil =>
    by_cases hx : x = a
    · subst hx; by_cases hb : b = imgDefault base x <;> simp [Memory.set, Memory.put, Memory.get, hb]
    · by_cases hb : b = imgDefault base a <;> simp [Memory.set, Memory.put, Memory.get, hb, hx]
  | cons c m ih =>
    obtain ⟨y, v⟩ := c
    simp only [Memory.wfFrom, Bool.and_eq_true, decide_eq_true_eq] at h
    simp only [Memory.set]
    by_cases h1 : a < y
    · rw [if_pos h1]
      by_cases hb : b = imgDefault base a
      · by_cases hx : x = a
        · subst hx
          have h5 : x ≠ y := by omega
          simp [Memory.put, hb, Memory.get, h5, h1]
        · simp [Memory.put, hb, hx]
      · by_cases hx : x = a
        · simp [Memory.put, hb, Memory.get, hx]
        · by_cases hxa : x < a
          · have h5 : x ≠ y := by omega
            have h6 : x < y := by omega
            simp [Memory.put, hb, Memory.get, hx, hxa, h5, h6]
          · simp [Memory.put, hb, Memory.get, hx, hxa]
    · rw [if_neg h1]
      by_cases h2 : a = y
      · subst h2
        rw [if_pos rfl]
        by_cases hx : x = a
        · subst hx
          have h5 := get_below h.2 (Nat.lt_succ_self x)
          by_cases hb : b = imgDefault base x <;> simp [Memory.put, Memory.get, hb, h5]
        · by_cases hxa : x < a
          · have h5 : Memory.get base m x = imgDefault base x := get_below h.2 (by omega)
            by_cases hb : b = imgDefault base a <;> simp [Memory.put, Memory.get, hb, hx, hxa, h5]
          · by_cases hb : b = imgDefault base a <;> simp [Memory.put, Memory.get, hb, hx, hxa]
      · rw [if_neg h2]
        by_cases hxy : x = y
        · have h5 : y ≠ a := fun e => h2 e.symm
          simp [Memory.get, hxy, h5]
        · by_cases hlt : x < y
          · have h5 : x ≠ a := by omega
            simp [Memory.get, hxy, hlt, h5]
          · simp [Memory.get, hxy, hlt, ih h.2]

theorem put_wf {base : List Byte} {m : Memory} {lo a : Nat} {b : Byte} (h : Memory.wfFrom base (a + 1) m = true)
    (hl : lo ≤ a) (ha : a < Config.imgSize) : Memory.wfFrom base lo (Memory.put base a b m) = true := by
  by_cases hb : b = imgDefault base a
  · simpa [Memory.put, hb] using wfFrom_mono h (by omega)
  · have hb' : (b == imgDefault base a) = false := by simpa using hb
    simp only [Memory.put, hb, if_false, Memory.wfFrom, hb', Bool.not_false, Bool.and_true, Bool.and_eq_true,
      decide_eq_true_eq]
    exact ⟨⟨hl, ha⟩, h⟩

/-- A one-byte write inside the image keeps the canonical form. -/
theorem set_wf {base : List Byte} {m : Memory} {lo : Nat} (h : Memory.wfFrom base lo m = true) {a : Nat} (b : Byte)
    (hl : lo ≤ a) (ha : a < Config.imgSize) : Memory.wfFrom base lo (Memory.set base m a b) = true := by
  induction m generalizing lo with
  | nil => exact put_wf rfl hl ha
  | cons c m ih =>
    obtain ⟨y, v⟩ := c
    have hy := h
    simp only [Memory.wfFrom, Bool.and_eq_true, decide_eq_true_eq] at h
    simp only [Memory.set]
    split_ifs with h1 h2
    · refine put_wf ?_ hl ha
      simp only [Memory.wfFrom, Bool.and_eq_true, decide_eq_true_eq]
      exact ⟨⟨⟨h1, h.1.1.2⟩, h.1.2⟩, h.2⟩
    · subst h2; exact put_wf h.2 hl ha
    · simp only [Memory.wfFrom, Bool.and_eq_true, decide_eq_true_eq]
      exact ⟨h.1, ih h.2 (by omega)⟩

/-- A write of a byte sequence inside the image keeps the canonical form. -/
theorem setBytes_wf {base : List Byte} {m : Memory} (h : Memory.wf base m = true) {a : Nat} {bs : List Byte}
    (ha : a + bs.length ≤ Config.imgSize) : Memory.wf base (Memory.setBytes base m a bs) = true := by
  induction bs generalizing a m with
  | nil => exact h
  | cons b bs ih =>
    rw [List.length_cons] at ha
    exact ih (set_wf h b (Nat.zero_le _) (by omega)) (by omega)

/-- A read after a write of a byte sequence. -/
theorem get_setBytes {base : List Byte} {m : Memory} (h : Memory.wf base m = true) {a : Nat} {bs : List Byte} (x : Nat)
    (ha : a + bs.length ≤ Config.imgSize) :
    Memory.get base (Memory.setBytes base m a bs) x =
      if a ≤ x ∧ x < a + bs.length then byteAt bs (x - a) else Memory.get base m x := by
  induction bs generalizing a m with
  | nil =>
    have h0 : ¬ (a ≤ x ∧ x < a + ([] : List Byte).length) := by rw [List.length_nil]; omega
    rw [if_neg h0]; rfl
  | cons b bs ih =>
    rw [List.length_cons] at ha ⊢
    rw [Memory.setBytes, ih (set_wf h b (Nat.zero_le _) (by omega)) (by omega), get_set h]
    by_cases h1 : x = a
    · subst h1
      have h2 : ¬ (x + 1 ≤ x ∧ x < x + 1 + bs.length) := by omega
      have h3 : x ≤ x ∧ x < x + (bs.length + 1) := by omega
      rw [if_neg h2, if_pos h3, if_pos rfl, Nat.sub_self]; rfl
    · by_cases h2 : a + 1 ≤ x ∧ x < a + 1 + bs.length
      · have h3 : a ≤ x ∧ x < a + (bs.length + 1) := by omega
        have h4 : x - a = (x - (a + 1)) + 1 := by omega
        rw [if_pos h2, if_pos h3, h4]; rfl
      · have h3 : ¬ (a ≤ x ∧ x < a + (bs.length + 1)) := by omega
        rw [if_neg h2, if_neg h3, if_neg h1]

/-- Two canonical images that read the same everywhere are the same list. -/
theorem memory_ext {base : List Byte} {lo : Nat} {m m' : Memory} (h : Memory.wfFrom base lo m = true)
    (h' : Memory.wfFrom base lo m' = true) (he : ∀ x, Memory.get base m x = Memory.get base m' x) : m = m' := by
  induction m generalizing lo m' with
  | nil =>
    cases m' with
    | nil => rfl
    | cons c t =>
      obtain ⟨y, v⟩ := c
      simp only [Memory.wfFrom, Bool.and_eq_true, Bool.not_eq_true', beq_eq_false_iff_ne] at h'
      have := he y
      simp only [Memory.get, if_true] at this
      exact absurd this.symm h'.1.2
  | cons c t ih =>
    obtain ⟨y, v⟩ := c
    cases m' with
    | nil =>
      simp only [Memory.wfFrom, Bool.and_eq_true, Bool.not_eq_true', beq_eq_false_iff_ne] at h
      have := he y
      simp only [Memory.get, if_true] at this
      exact absurd this h.1.2
    | cons c' t' =>
      obtain ⟨z, w⟩ := c'
      simp only [Memory.wfFrom, Bool.and_eq_true, Bool.not_eq_true', beq_eq_false_iff_ne, decide_eq_true_eq] at h h'
      have hyz : y = z := by
        by_contra hne
        rcases Nat.lt_or_gt_of_ne hne with hlt | hlt
        · have := he y
          simp only [Memory.get, if_true, hne, hlt, if_false] at this
          exact h.1.2 this
        · have := he z
          have hne' : z ≠ y := fun e => hne e.symm
          have hlt' : z < y := hlt
          simp only [Memory.get, if_true, hne', hlt', if_false] at this
          exact h'.1.2 this.symm
      subst hyz
      have hv : v = w := by simpa [Memory.get] using he y
      subst hv
      have ht : t = t' := by
        refine ih h.2 h'.2 fun x => ?_
        by_cases hx : x < y + 1
        · rw [get_below h.2 hx, get_below h'.2 hx]
        · have := he x
          have h1 : x ≠ y := by omega
          have h2 : ¬ x < y := by omega
          simpa [Memory.get, h1, h2] using this
      rw [ht]

@[simp] theorem rdBytes_length (s : State) (a n : Nat) : (s.rdBytes a n).length = n := by
  induction n generalizing a with
  | zero => rfl
  | succ n ih => simp [State.rdBytes, ih]

/-- Byte `i` of a read is the image byte at `a + i` (00_scope.md R8). -/
theorem byteAt_rdBytes (s : State) (a n i : Nat) (h : i < n) : byteAt (s.rdBytes a n) i = s.rd (a + i) := by
  induction n generalizing a i with
  | zero => omega
  | succ n ih =>
    cases i with
    | zero => rfl
    | succ i =>
      have := ih (a + 1) i (by omega)
      simpa [byteAt, State.rdBytes, Nat.add_assoc, Nat.add_comm 1 i] using this

/-- A read depends only on the bytes it reads. -/
theorem rdBytes_congr {s t : State} {a n : Nat} (h : ∀ i, i < n → s.rd (a + i) = t.rd (a + i)) :
    s.rdBytes a n = t.rdBytes a n := by
  induction n generalizing a with
  | zero => rfl
  | succ n ih =>
    have h0 := h 0 (by omega)
    have h1 := ih (a := a + 1) fun i hi => by simpa [Nat.add_assoc, Nat.add_comm 1 i] using h (i + 1) (by omega)
    simp only [State.rdBytes, h1]
    simpa using h0

/-- What a state reads after `wrBytes`. -/
theorem rd_wrBytes {s : State} (h : Memory.wf s.cfg.startImage s.img = true) {a : Nat} {bs : List Byte} (x : Nat)
    (ha : a + bs.length ≤ Config.imgSize) :
    (s.wrBytes a bs).rd x = if a ≤ x ∧ x < a + bs.length then byteAt bs (x - a) else s.rd x :=
  get_setBytes h x ha

/-- `MemReadBytes` whole: it refuses past the end and otherwise gives the bytes (20_memory.md R43). -/
theorem memReadBytes_eq (s : State) (a n : Nat) :
    s.memReadBytes a n = if a + n ≤ Config.imgSize then .ok (s.rdBytes a n) else .error .oob := by
  simp [State.memReadBytes, inImage]

theorem memWriteBytes_eq (s : State) (a : Nat) (bs : List Byte) :
    s.memWriteBytes a bs = if a + bs.length ≤ Config.imgSize then .ok (s.wrBytes a bs) else .error .oob := by
  simp [State.memWriteBytes, inImage]

theorem memReadByte_eq (s : State) (a : Nat) :
    s.memReadByte a = if a + 1 ≤ Config.imgSize then .ok (s.rd a) else .error .oob := by
  simp [State.memReadByte, inImage]

theorem memReadHalf_eq (s : State) (a : Nat) :
    s.memReadHalf a = if a + 2 ≤ Config.imgSize then .ok (le16 (s.rd a) (s.rd (a + 1))) else .error .oob := by
  simp [State.memReadHalf, inImage]

/-- `MemWriteBytes` whole: if it answers a state, that state differs in the image alone, which stays canonical. -/
theorem memWriteBytes_ok {s t : State} {a : Nat} {bs : List Byte} (h : s.memWriteBytes a bs = .ok t) :
    a + bs.length ≤ Config.imgSize ∧ t = s.wrBytes a bs ∧
    (Memory.wf s.cfg.startImage s.img = true → Memory.wf s.cfg.startImage t.img = true) := by
  rw [memWriteBytes_eq] at h
  split_ifs at h with hb
  obtain rfl := (Except.ok.inj h).symm
  exact ⟨hb, rfl, fun hw => setBytes_wf hw hb⟩

/-- The image after reset is canonical. -/
theorem reset_memory_wf : Memory.wf State.reset.cfg.startImage State.reset.img = true := rfl

end Sys2Proof.Machine
end

