-- ==== Sys2Proof/Laws/Ops.lean ====
section
/-! SUPPORT. Issuing and ending an operation: what each can do, once. -/

namespace Sys2Proof.Machine

set_option Elab.async false

theorem issue_idle {s : State} (h : s.busy = false) (body : State → State) :
    issue s body = .next (body { s with busy := true }) := by simp [issue, h]

theorem issue_busy {s : State} (h : s.busy = true) (body : State → State) :
    issue s body = .next { s with out := .error .busy } := by simp [issue, h, State.refuseIssue]

@[simp] theorem commit_ok (s t : State) (r : Result) : s.commit (.ok (t, r)) = t.succeed r := rfl

@[simp] theorem commit_error (s : State) (c : Cause) : s.commit (.error c) = s.raise c := rfl

@[simp] theorem map_ok {α β : Type} (f : α → β) (a : α) : (Except.ok a : Except Cause α).map f = .ok (f a) := rfl

@[simp] theorem map_error {α β : Type} (f : α → β) (c : Cause) : (Except.error c : Except Cause α).map f = .error c := rfl

@[simp] theorem bind_ok {α β : Type} (f : α → Except Cause β) (a : α) : (Except.ok a >>= f) = f a := rfl

@[simp] theorem bind_error {α β : Type} (f : α → Except Cause β) (c : Cause) :
    ((Except.error c : Except Cause α) >>= f) = .error c := rfl

/-- Ending with a value, of an operation that changed nothing else. -/
theorem busy_succeed {s : State} (h : s.busy = false) (r : Result) :
    ({ s with busy := true } : State).succeed r = s.answered r := by
  cases s; subst h; rfl

/-- Ending by raising, of an operation that changed nothing. -/
theorem busy_raise {s : State} (h : s.busy = false) (c : Cause) :
    ({ s with busy := true } : State).raise c = s.failed c.kind c.info c := by
  cases s; subst h; rfl

/-- Ending after a write of the image. -/
theorem busy_wrBytes_succeed {s : State} (h : s.busy = false) (a : Nat) (bs : List Byte) (r : Result) :
    (({ s with busy := true } : State).wrBytes a bs).succeed r = (s.wrBytes a bs).answered r := by
  cases s; subst h; rfl

/-- An operation that computes a value from the state and changes nothing. -/
theorem issue_value {s : State} (h : s.busy = false) (f : State → Result) :
    issue s (fun t => t.succeed (f t)) = .next (s.answered (f { s with busy := true })) := by
  rw [issue_idle h, busy_succeed h]

/-- An operation that computes a value or raises, and changes nothing. -/
theorem issue_read {α : Type} {s : State} (h : s.busy = false) (f : State → Except Cause α) (g : State → α → Result) :
    issue s (fun t => t.commit ((f t).map fun v => (t, g t v))) =
      .next (match f { s with busy := true } with
        | .ok v => s.answered (g { s with busy := true } v)
        | .error c => s.failed c.kind c.info c) := by
  rw [issue_idle h]
  cases f { s with busy := true } with
  | ok v => simp [busy_succeed h]
  | error c => simp [busy_raise h]

/-- The state an operation starts from reads the image of the state before it. -/
@[simp] theorem rd_setBusy (s : State) (b : Bool) (a : Nat) : ({ s with busy := b } : State).rd a = s.rd a := rfl

@[simp] theorem rdBytes_setBusy (s : State) (b : Bool) (a n : Nat) :
    ({ s with busy := b } : State).rdBytes a n = s.rdBytes a n :=
  rdBytes_congr fun _ _ => rfl

@[simp] theorem rd_answered (s : State) (r : Result) (a : Nat) : (s.answered r).rd a = s.rd a := rfl

@[simp] theorem rdBytes_answered (s : State) (r : Result) (a n : Nat) : (s.answered r).rdBytes a n = s.rdBytes a n :=
  rdBytes_congr fun _ _ => rfl

@[simp] theorem memReadBytes_setBusy (s : State) (b : Bool) (a n : Nat) :
    ({ s with busy := b } : State).memReadBytes a n = s.memReadBytes a n := by simp [memReadBytes_eq]

/-- Reads of a written state, byte for byte. -/
theorem bytesFrom_wrBytes {s : State} (h : s.ImageWf) {a : Nat} {bs : List Byte} (ha : a + bs.length ≤ Config.imgSize) :
    (s.wrBytes a bs).BytesFrom s a bs := fun x => rd_wrBytes h x ha

@[simp] theorem answered_busy (s : State) (r : Result) : (s.answered r).busy = s.busy := rfl

@[simp] theorem answered_cfg (s : State) (r : Result) : (s.answered r).cfg = s.cfg := rfl

@[simp] theorem answered_img (s : State) (r : Result) : (s.answered r).img = s.img := rfl

@[simp] theorem answered_err (s : State) (r : Result) : (s.answered r).err = ⟨0, 0⟩ := rfl

@[simp] theorem answered_out (s : State) (r : Result) : (s.answered r).out = r := rfl

theorem channelSlot_ok {n : Nat} (h1 : 1 ≤ n) (h2 : n ≤ 214) : channelSlot n = .ok (n - 1) := by
  simp only [channelSlot, Config.chSlots]; rw [if_neg (by omega)]

theorem channelSlot_bad {n : Nat} (h : n < 1 ∨ 214 < n) : channelSlot n = .error .badChannel := by
  simp only [channelSlot, Config.chSlots]; rw [if_pos (by omega)]

theorem nameSlot_ok {n : Nat} (h1 : 1 ≤ n) (h2 : n ≤ 200) : nameSlot n = .ok (n - 1) := by
  simp only [nameSlot, Config.nameSlots]; rw [if_neg (by omega)]

theorem nameSlot_bad {n : Nat} (h : n < 1 ∨ 200 < n) : nameSlot n = .error .badChannel := by
  simp only [nameSlot, Config.nameSlots]; rw [if_pos (by omega)]

/-- `rec(n)` (45_channel_record.md R151) for a channel number in range, where the channel table lies in the image. -/
theorem channelRecord_ok {s : State} {n : Nat} (h : TablesInImage s.cfg) (h1 : 1 ≤ n) (h2 : n ≤ 214) :
    s.channelRecord n = .ok (s.rdBytes (s.cfg.chBase + 16 * (n - 1)) 16) := by
  have := h.1
  simp only [Config.chSlots, Config.imgSize] at this
  simp only [State.channelRecord, channelSlot_ok h1 h2, bind_ok, memReadBytes_eq, chanAddr, Config.imgSize]
  rw [if_pos (by omega)]

end Sys2Proof.Machine
end

