-- ==== Sys2Proof/Laws/Obf.lean ====
section
/-! SUPPORT. Obfuscation and checksum: lengths, bytes, the key index, bit 16 of the register. -/

namespace Sys2Proof.Machine

set_option Elab.async false

@[simp] theorem obfBytes_length (key : List Byte) (k : BitVec 4) (bs : List Byte) : (obfBytes key k bs).length = bs.length := by
  induction bs generalizing k with
  | nil => rfl
  | cons b bs ih => simp [obfBytes, ih]

theorem obfIndex_eq (k : BitVec 4) (bs : List Byte) : obfIndex k bs = k + BitVec.ofNat 4 bs.length := by
  induction bs generalizing k with
  | nil => simp [obfIndex]
  | cons b bs ih =>
    rw [obfIndex, ih, List.length_cons]
    apply BitVec.eq_of_toNat_eq
    simp; omega

/-- Byte `i` of the loop of R90 that starts at key index `k`. -/
theorem byteAt_obfBytes (key : List Byte) (k : BitVec 4) (bs : List Byte) (i : Nat) (h : i < bs.length) :
    byteAt (obfBytes key k bs) i = byteAt bs i ^^^ byteAt key ((k.toNat + i) % 16) := by
  induction bs generalizing k i with
  | nil => simp at h
  | cons b bs ih =>
    cases i with
    | zero =>
      have := k.isLt
      have h1 : (k.toNat + 0) % 16 = k.toNat := by omega
      rw [h1]; rfl
    | succ i =>
      have h1 : ((k + 1).toNat + i) % 16 = (k.toNat + (i + 1)) % 16 := by simp; omega
      have h2 := ih (k + 1) i (by simpa using h)
      rw [h1] at h2
      simpa [obfBytes, byteAt] using h2

theorem obfBytes_xorsKey (c : Config) (bs : List Byte) : XorsKey c bs (obfBytes c.key 0 bs) :=
  ⟨obfBytes_length .., fun i hi => by simpa using byteAt_obfBytes c.key 0 bs i hi⟩

/-- Two sequences of one length with the same bytes are the same. -/
theorem list_ext_byteAt {a b : List Byte} (hl : a.length = b.length) (h : ∀ i, i < a.length → byteAt a i = byteAt b i) :
    a = b := by
  apply List.ext_getElem hl
  intro i h1 h2
  simpa [byteAt, List.getD_eq_getElem?_getD, h1, h2] using h i h1

/-- The bytes under the key are determined. -/
theorem xorsKey_eq {c : Config} {bs o : List Byte} (h : XorsKey c bs o) : o = obfBytes c.key 0 bs := by
  refine list_ext_byteAt (by simp [h.1]) fun i hi => ?_
  rw [h.2 i (h.1 ▸ hi), (obfBytes_xorsKey c bs).2 i (h.1 ▸ hi)]

theorem obfBytes_append (key : List Byte) (k : BitVec 4) (a b : List Byte) :
    obfBytes key k (a ++ b) = obfBytes key k a ++ obfBytes key (k + BitVec.ofNat 4 a.length) b := by
  induction a generalizing k with
  | nil => simp [obfBytes]
  | cons x a ih =>
    have : k + 1 + BitVec.ofNat 4 a.length = k + BitVec.ofNat 4 (a.length + 1) := by
      apply BitVec.eq_of_toNat_eq; simp; omega
    rw [List.cons_append, obfBytes, obfBytes, ih, this, List.length_cons, List.cons_append]

/-- A round of the shift register leaves bit 16 clear (10_state.md R13). -/
theorem crcShift_bit16 (c : BitVec 17) : (crcShift c).getLsbD 16 = false := by
  unfold crcShift
  split
  · simp
  · next h => exact Bool.eq_false_iff.mpr h

theorem repeat_crcShift_bit16 (n : Nat) (c : BitVec 17) : (Nat.repeat crcShift (n + 1) c).getLsbD 16 = false :=
  crcShift_bit16 _

theorem crcReg_bit16 (bs : List Byte) : (crcReg bs).getLsbD 16 = false := by
  rcases List.eq_nil_or_concat bs with h | ⟨l, b, h⟩
  · subst h; rfl
  · subst h
    simpa [crcReg, crcByte] using repeat_crcShift_bit16 7 _

/-- A round on numbers is a round of the register. -/
theorem crcShift_toNat {c : BitVec 17} (h : c.toNat < 65536) :
    (crcShift c).toNat = crcRoundNat c.toNat ∧ (crcShift c).toNat < 65536 := by
  have h1 : (c <<< 1).toNat = 2 * c.toNat := by
    rw [BitVec.toNat_shiftLeft, Nat.shiftLeft_eq, Nat.mod_eq_of_lt (by omega)]; omega
  have h2 : (c <<< 1).getLsbD 16 = decide (65536 ≤ 2 * c.toNat) := by
    rw [← BitVec.testBit_toNat, h1, Nat.testBit_eq_decide_div_mod_eq]
    congr 1
    have : 2 * c.toNat < 131072 := by omega
    apply propext; constructor <;> intro h <;> omega
  have h3 : ((c <<< 1 ^^^ 0x1021#17) &&& 0xFFFF#17).toNat = Nat.xor (2 * c.toNat) 0x1021 % 65536 := by
    rw [BitVec.toNat_and, BitVec.toNat_xor, h1]
    exact Nat.and_two_pow_sub_one_eq_mod _ 16
  unfold crcShift crcRoundNat
  rw [h2]
  by_cases h4 : 65536 ≤ 2 * c.toNat
  · rw [if_pos (by simpa using h4), if_pos h4, h3]
    exact ⟨rfl, Nat.mod_lt _ (by decide)⟩
  · rw [if_neg (by simpa using h4), if_neg h4, h1]
    exact ⟨rfl, by omega⟩

theorem repeat_crcShift_toNat (n : Nat) {c : BitVec 17} (h : c.toNat < 65536) :
    (Nat.repeat crcShift n c).toNat = Nat.repeat crcRoundNat n c.toNat ∧ (Nat.repeat crcShift n c).toNat < 65536 := by
  induction n with
  | zero => exact ⟨rfl, h⟩
  | succ n ih =>
    have := crcShift_toNat ih.2
    simp only [Nat.repeat]
    rw [← ih.1]
    exact this

/-- The register of R100 and the number of R100 are one. -/
theorem crcReg_toNat (bs : List Byte) : (crcReg bs).toNat = crcNat bs ∧ crcNat bs < 65536 := by
  suffices h : ∀ (bs : List Byte) (c : BitVec 17) (m : Nat), c.toNat = m → m < 65536 →
      (bs.foldl crcByte c).toNat = bs.foldl crcByteNat m ∧ bs.foldl crcByteNat m < 65536 by
    exact h bs 0 0 rfl (by decide)
  intro bs
  induction bs with
  | nil => intro c m h1 h2; exact ⟨h1, h2⟩
  | cons b bs ih =>
    intro c m h1 h2
    have hb : (b.setWidth 17 <<< 8).toNat = 256 * b.toNat := by
      have := b.isLt
      rw [BitVec.toNat_shiftLeft, Nat.shiftLeft_eq, BitVec.toNat_setWidth, Nat.mod_eq_of_lt (a := b.toNat) (by omega),
        Nat.mod_eq_of_lt (by omega)]; omega
    have hx : (c ^^^ (b.setWidth 17 <<< 8)).toNat = Nat.xor m (256 * b.toNat) := by
      rw [BitVec.toNat_xor, hb, h1]; rfl
    have hlt : (c ^^^ (b.setWidth 17 <<< 8)).toNat < 65536 := by
      rw [hx]
      have := b.isLt
      exact Nat.xor_lt_two_pow (n := 16) h2 (by omega)
    have h3 := repeat_crcShift_toNat 8 hlt
    rw [hx] at h3
    rw [List.foldl_cons, List.foldl_cons]
    refine ih (crcByte c b) (crcByteNat m b) ?_ ?_
    · unfold crcByte crcByteNat; exact h3.1
    · unfold crcByteNat; rw [← h3.1]; exact h3.2

end Sys2Proof.Machine
end

