-- ==== Sys2Proof/Laws/Frame.lean ====
section
/-! SUPPORT. What the sequencer does with a whole header, payload, trailer or frame (43_framing.md R116 to R119): the
sequences cite these and never unfold `feed`. -/

namespace Sys2Proof.Machine

set_option Elab.async false

theorem feed_nil (s : State) : feed [] s = { s with rxq := [] } := rfl

theorem feed_idle {s : State} (h : s.rxs = .idle) (q : List Byte) : feed q s = { s with rxq := q } := by
  cases q <;> simp [feed, h]

/-- The block after the frame of the obfuscated payload `p` has been taken (R119), before the host goes on. -/
def State.received (s : State) (p : List Byte) (k0 k1 : Byte) : State :=
  { s with hb := [0xAB, 0xCD, BitVec.ofNat 8 p.length, 0x00], len := BitVec.ofNat 8 p.length,
           rxb := p ++ s.rxb.drop p.length, tb := [k0, k1, 0xDC, 0xBA], ki := BitVec.ofNat 4 p.length, err := ⟨0, 0⟩,
           rxs := .idle, cnt := 0, busy := false }

/-- The block after a bad header (R117), before the host goes on. -/
def State.badHeader (s : State) (b0 b1 b2 b3 : Byte) (i : BitVec 8) : State :=
  { s with hb := [b0, b1, b2, b3], err := ⟨1, i⟩, rxs := .idle, cnt := 0, busy := false }

theorem list_length_four {l : List Byte} (h : l.length = 4) : ∃ a b c d, l = [a, b, c, d] := by
  match l, h with
  | [a, b, c, d], _ => exact ⟨a, b, c, d, rfl⟩

/-- One byte that does not end the reception. -/
theorem feed_cons_none {b : Byte} {q : List Byte} {s t : State} (h : s.rxs ≠ .idle) (hb : s.rxByte b = (t, none)) :
    feed (b :: q) s = feed q t := by
  simp [feed, h, hb]

/-- One byte that ends it. -/
theorem feed_cons_some {b : Byte} {q : List Byte} {s t : State} {e : ParseEnd} (h : s.rxs ≠ .idle)
    (hb : s.rxByte b = (t, some e)) : feed (b :: q) s = feed q (t.react t.seq e) := by
  simp [feed, h, hb]

theorem feed_header_step {b : Byte} {q : List Byte} {s : State} (h : s.rxs = .hdr) (hc : s.cnt.toNat < 3) :
    feed (b :: q) s = feed q { s with hb := s.hb.set s.cnt.toNat b, cnt := s.cnt + 1 } :=
  feed_cons_none (by simp [h]) (by simp [State.rxByte, h, State.rxHeader, hc])

theorem feed_trailer_step {b : Byte} {q : List Byte} {s : State} (h : s.rxs = .trl) (hc : s.cnt.toNat < 3) :
    feed (b :: q) s = feed q { s with tb := s.tb.set s.cnt.toNat b, cnt := s.cnt + 1 } :=
  feed_cons_none (by simp [h]) (by simp [State.rxByte, h, State.rxTrailer, hc])

/-- Three bytes of a header are only stored. -/
theorem feed_header_three {b0 b1 b2 : Byte} {q : List Byte} {s : State} (h : s.rxs = .hdr) (hc : s.cnt = 0) :
    feed (b0 :: b1 :: b2 :: q) s =
      feed q { s with hb := ((s.hb.set 0 b0).set 1 b1).set 2 b2, cnt := 3 } := by
  simp [feed, State.rxByte, State.rxHeader, h, hc]

theorem feed_trailer_three {b0 b1 b2 : Byte} {q : List Byte} {s : State} (h : s.rxs = .trl) (hc : s.cnt = 0) :
    feed (b0 :: b1 :: b2 :: q) s =
      feed q { s with tb := ((s.tb.set 0 b0).set 1 b1).set 2 b2, cnt := 3 } := by
  simp [feed, State.rxByte, State.rxTrailer, h, hc]

theorem headerCheck_good (l : Byte) : headerCheck [0xAB, 0xCD, l, 0x00] = .ok l := rfl

theorem headerCheck_bad {b0 b1 b2 b3 : Byte} {i : BitVec 8} {c : Cause} (h : headerFault b0 b1 b3 = some (i, c)) :
    headerCheck [b0, b1, b2, b3] = .error c ∧ c.errReg = ⟨1, i⟩ := by
  simp only [headerFault] at h
  simp only [headerCheck, byteAt, List.getD_cons_zero, List.getD_cons_succ]
  split at h
  · next h1 => cases h; rw [if_pos h1]; exact ⟨rfl, rfl⟩
  · next h1 =>
    rw [if_neg h1]
    split at h
    · next h2 => cases h; rw [if_pos h2]; exact ⟨rfl, rfl⟩
    · cases h

/-- A good header (R117, R63). -/
theorem feed_header {l : Byte} {q : List Byte} {s : State} (h : s.rxs = .hdr) (hc : s.cnt = 0) (hb : s.hb.length = 4) :
    feed ([0xAB, 0xCD, l, 0x00] ++ q) s =
      feed q { s with hb := [0xAB, 0xCD, l, 0x00], len := l, cnt := 0, rxs := if l = 0 then .trl else .pay } := by
  obtain ⟨x0, x1, x2, x3, hx⟩ := list_length_four hb
  simp only [List.cons_append, List.nil_append]
  rw [feed_header_three h hc, feed_cons_none (t := { s with
    hb := [0xAB, 0xCD, l, 0x00], len := l, cnt := 0, rxs := if l = 0 then .trl else .pay }) (by simp [h])]
  simp [State.rxByte, h, State.rxHeader, hx, headerCheck, byteAt]

/-- A bad header (R117, R114): exactly its four bytes are taken. -/
theorem feed_badHeader {b0 b1 b2 b3 : Byte} {i : BitVec 8} {c : Cause} {q : List Byte} {s : State} (h : s.rxs = .hdr)
    (hc : s.cnt = 0) (hb : s.hb.length = 4) (hf : headerFault b0 b1 b3 = some (i, c)) :
    feed ([b0, b1, b2, b3] ++ q) s = feed q ((s.badHeader b0 b1 b2 b3 i).react s.seq (.error c)) := by
  obtain ⟨x0, x1, x2, x3, hx⟩ := list_length_four hb
  simp only [List.cons_append, List.nil_append]
  rw [feed_header_three h hc, feed_cons_some (t := s.badHeader b0 b1 b2 b3 i) (e := .error c) (by simp [h])]
  · rfl
  · obtain ⟨h1, h2⟩ := headerCheck_bad (b2 := b2) hf
    simp [State.rxByte, h, State.rxHeader, hx, h1, h2, State.badHeader, State.finish]

/-- Payload bytes up to the last (R118). -/
theorem feed_payload {p q : List Byte} {s : State} (h : s.rxs = .pay) (hne : p ≠ [])
    (hl : s.cnt.toNat + p.length = s.len.toNat) (hr : s.len.toNat ≤ s.rxb.length) :
    feed (p ++ q) s =
      feed q { s with rxb := s.rxb.take s.cnt.toNat ++ p ++ s.rxb.drop s.len.toNat, cnt := 0, rxs := .trl } := by
  induction p generalizing s with
  | nil => exact absurd rfl hne
  | cons b p ih =>
    have hlt := s.len.isLt
    simp only [List.length_cons] at hl
    have hset : s.rxb.set s.cnt.toNat b = s.rxb.take s.cnt.toNat ++ b :: s.rxb.drop (s.cnt.toNat + 1) :=
      List.set_eq_take_append_cons_drop .. |>.trans (if_pos (by omega))
    cases p with
    | nil =>
      simp only [List.length_nil] at hl
      rw [List.cons_append, List.nil_append, feed_cons_none (t := { s with
        rxb := s.rxb.take s.cnt.toNat ++ [b] ++ s.rxb.drop s.len.toNat, cnt := 0, rxs := .trl }) (by simp [h])]
      have h1 : ¬ s.cnt.toNat + 1 < s.len.toNat := by omega
      have h2 : s.cnt.toNat + 1 = s.len.toNat := by omega
      simp [State.rxByte, h, State.rxPayload, hset, h2]
    | cons b' p =>
      simp only [List.length_cons] at hl
      have h1 : s.cnt.toNat + 1 < s.len.toNat := by omega
      have h2 : (s.cnt + 1).toNat = s.cnt.toNat + 1 := by simp; omega
      rw [List.cons_append, feed_cons_none (t := { s with rxb := s.rxb.set s.cnt.toNat b, cnt := s.cnt + 1 })
        (by simp [h]) (by simp [State.rxByte, h, State.rxPayload, h1])]
      rw [ih (s := { s with rxb := s.rxb.set s.cnt.toNat b, cnt := s.cnt + 1 }) h (by simp)
        (by simp only [h2, List.length_cons]; omega) (by simpa using hr)]
      have h3 : (s.rxb.set s.cnt.toNat b).take (s.cnt.toNat + 1) = s.rxb.take s.cnt.toNat ++ [b] := by
        rw [hset, List.take_append, List.length_take, Nat.min_eq_left (by omega), List.take_of_length_le (by simp)]
        simp
      have h4 : (s.rxb.set s.cnt.toNat b).drop s.len.toNat = s.rxb.drop s.len.toNat := by
        rw [List.drop_set_of_lt (by omega)]
      simp only [h2, h3, h4]
      simp

/-- A good trailer (R119): the payload buffered so far is de-obfuscated. -/
theorem feed_trailer {k0 k1 : Byte} {q : List Byte} {s : State} (h : s.rxs = .trl) (hc : s.cnt = 0) (hb : s.tb.length = 4)
    (hr : s.rxb.length = 255) :
    feed ([k0, k1, 0xDC, 0xBA] ++ q) s =
      feed q (({ s with tb := [k0, k1, 0xDC, 0xBA], ki := BitVec.ofNat 4 s.len.toNat, err := ⟨0, 0⟩, rxs := .idle, cnt := 0,
                        busy := false } : State).react s.seq (.ok (obfBytes s.cfg.key 0 (s.rxb.take s.len.toNat)))) := by
  obtain ⟨x0, x1, x2, x3, hx⟩ := list_length_four hb
  have hlt := s.len.isLt
  simp only [List.cons_append, List.nil_append]
  rw [feed_trailer_three h hc, feed_cons_some (t := { s with
    tb := [k0, k1, 0xDC, 0xBA], ki := BitVec.ofNat 4 s.len.toNat, err := ⟨0, 0⟩, rxs := .idle, cnt := 0, busy := false })
    (e := .ok (obfBytes s.cfg.key 0 (s.rxb.take s.len.toNat))) (by simp [h])]
  have hg : trailerGood [k0, k1, 220#8, 186#8] = true := rfl
  have hm : min s.len.toNat 255 = s.len.toNat := by omega
  simp [State.rxByte, h, State.rxTrailer, hx, hg, State.obf, State.finish, obfIndex_eq, ErrReg.ok, hr, hm]

/-- A trailer whose last two bytes are wrong (R119). -/
theorem feed_badTrailer {t0 t1 t2 t3 : Byte} {q : List Byte} {s : State} (h : s.rxs = .trl) (hc : s.cnt = 0)
    (hb : s.tb.length = 4) (hf : t2 ≠ 0xDC ∨ t3 ≠ 0xBA) :
    feed ([t0, t1, t2, t3] ++ q) s =
      feed q (({ s with tb := [t0, t1, t2, t3], err := ⟨1, 3⟩, rxs := .idle, cnt := 0, busy := false } : State).react s.seq
        (.error .badTail)) := by
  obtain ⟨x0, x1, x2, x3, hx⟩ := list_length_four hb
  simp only [List.cons_append, List.nil_append]
  rw [feed_trailer_three h hc, feed_cons_some (t := { s with
    tb := [t0, t1, t2, t3], err := ⟨1, 3⟩, rxs := .idle, cnt := 0, busy := false })
    (e := .error .badTail) (by simp [h])]
  have hg : trailerGood [t0, t1, t2, t3] = false := by
    simp only [trailerGood, byteAt, List.getD_cons_zero, List.getD_cons_succ]
    rcases hf with hf | hf <;> simp_all
  simp [State.rxByte, h, State.rxTrailer, hx, hg, State.finish, Cause.errReg, Cause.kind, Cause.info]

/-- Header and payload together: the reception stands at the start of its trailer. -/
theorem feed_upToTrailer {p q : List Byte} {s : State} (h : s.rxs = .hdr) (hc : s.cnt = 0) (hb : s.Buffers)
    (hp : p.length ≤ 255) :
    feed ([0xAB, 0xCD, BitVec.ofNat 8 p.length, 0x00] ++ p ++ q) s =
      feed q { s with hb := [0xAB, 0xCD, BitVec.ofNat 8 p.length, 0x00], len := BitVec.ofNat 8 p.length,
                      rxb := p ++ s.rxb.drop p.length, cnt := 0, rxs := .trl } := by
  have hlen : (BitVec.ofNat 8 p.length).toNat = p.length := by simp; omega
  rw [List.append_assoc, feed_header h hc hb.1]
  by_cases hn : p = []
  · subst hn; simp
  · have h0 : BitVec.ofNat 8 p.length ≠ 0 := by
      intro he
      have : p.length = 0 := by rw [← hlen, he]; rfl
      exact hn (List.eq_nil_of_length_eq_zero this)
    rw [feed_payload (if_neg h0) hn (by simp only [hlen]; simp) (by simp only [hlen, hb.2.2]; omega)]
    simp only [hlen]
    simp

/-- A whole frame with any checksum bytes (R113, R115). -/
theorem feed_frame {p q : List Byte} {k0 k1 : Byte} {s : State} (h : s.rxs = .hdr) (hc : s.cnt = 0) (hb : s.Buffers)
    (hp : p.length ≤ 255) :
    feed (wireFrame p k0 k1 ++ q) s =
      feed q ((s.received p k0 k1).react s.seq (.ok (obfBytes s.cfg.key 0 p))) := by
  have hlen : (BitVec.ofNat 8 p.length).toNat = p.length := by simp; omega
  rw [wireFrame, List.append_assoc, feed_upToTrailer h hc hb hp]
  refine (feed_trailer (s := { s with
    hb := [0xAB, 0xCD, BitVec.ofNat 8 p.length, 0x00], len := BitVec.ofNat 8 p.length,
    rxb := p ++ s.rxb.drop p.length, cnt := 0, rxs := .trl }) rfl rfl hb.2.1 ?_).trans ?_
  rotate_left
  · simp only [hlen, State.received]
    rw [List.take_left']
    rfl
  · have := hb.2.2
    simp only [List.length_append, List.length_drop, this]; omega

/-- A frame with a wrong tail. -/
theorem feed_badFrame {p q : List Byte} {t0 t1 t2 t3 : Byte} {s : State} (h : s.rxs = .hdr) (hc : s.cnt = 0)
    (hb : s.Buffers) (hp : p.length ≤ 255) (hf : t2 ≠ 0xDC ∨ t3 ≠ 0xBA) :
    feed ([0xAB, 0xCD, BitVec.ofNat 8 p.length, 0x00] ++ p ++ [t0, t1, t2, t3] ++ q) s =
      feed q (({ s with hb := [0xAB, 0xCD, BitVec.ofNat 8 p.length, 0x00], len := BitVec.ofNat 8 p.length,
                        rxb := p ++ s.rxb.drop p.length, tb := [t0, t1, t2, t3], err := ⟨1, 3⟩, rxs := .idle, cnt := 0,
                        busy := false } : State).react s.seq (.error .badTail)) := by
  rw [List.append_assoc, feed_upToTrailer h hc hb hp]
  exact feed_badTrailer (s := { s with
    hb := [0xAB, 0xCD, BitVec.ofNat 8 p.length, 0x00], len := BitVec.ofNat 8 p.length,
    rxb := p ++ s.rxb.drop p.length, cnt := 0, rxs := .trl }) rfl rfl hb.2.1 hf

end Sys2Proof.Machine
end

