-- ==== Sys2Proof/Laws/PerInstr.lean ====
section
/-! SUPPORT. The family `OpselOfRow`, one lemma per instruction: which port an instruction reaches the block through, and
that an issued one has a code of the operation map (30_encoding.md R81, R82, R60). -/

namespace Sys2Proof.Laws.OpselOfRow

set_option Elab.async false

open Sys2Proof Sys2Proof.Machine

/-- An operation is issued with a code of the map, a macro is called without one, a frame part is four bytes of the line,
a record is presented with its format. -/
def Statement (i : Instr) : Prop :=
  match encode i with
  | .issue op _ => op.toNat ∈ opselCodes
  | .call _ _ => True
  | .line bs => bs.length = 4
  | .record f bs => i.wellFormed = true → f = .name ∨ f = .logo1 ∨ f = .logo2 → bs.length = 16
  | .timeout => False
  | .onError _ _ => False

theorem obf (s : List Byte) : Statement (.obf s) := by simp [Statement, encode, opselCodes]

theorem crc16 (s : List Byte) : Statement (.crc16 s) := by simp [Statement, encode, opselCodes]

theorem frameBuild (cmd : List Byte) : Statement (.frameBuild cmd) := by simp [Statement, encode, opselCodes]

theorem frameParse : Statement .frameParse := by simp [Statement, encode, opselCodes]

theorem cmdIdent : Statement .cmdIdent := by simp [Statement, encode, opselCodes]

theorem rspIdent (r : List Byte) : Statement (.rspIdent r) := by simp [Statement, encode, opselCodes]

theorem cmdRead (offset : Half) (length : Byte) : Statement (.cmdRead offset length) := by simp [Statement, encode, opselCodes]

theorem rspRead (r : List Byte) (length : Byte) : Statement (.rspRead r length) := by simp [Statement, encode, opselCodes]

theorem cmdWrite (data : List Byte) (offset : Half) : Statement (.cmdWrite data offset) := by simp [Statement, encode, opselCodes]

theorem rspWrite (r : List Byte) (offset : Half) : Statement (.rspWrite r offset) := by simp [Statement, encode, opselCodes]

theorem cmdReset : Statement .cmdReset := by simp [Statement, encode, opselCodes]

theorem chDecode (n : Nat) : Statement (.chDecode n) := by simp [Statement, encode, opselCodes]

theorem chEncode (n : Nat) (ch : Channel) : Statement (.chEncode n ch) := by simp [Statement, encode, opselCodes]

theorem chErase (n : Nat) : Statement (.chErase n) := by simp [Statement, encode, opselCodes]

theorem chIsEmpty (n : Nat) : Statement (.chIsEmpty n) := by simp [Statement, encode, opselCodes]

theorem toneDec (type : BitVec 2) (code : Byte) : Statement (.toneDec type code) := by simp [Statement, encode, opselCodes]

theorem toneEnc (t : Tone) : Statement (.toneEnc t) := by simp [Statement, encode, opselCodes]

theorem stepDec (b : Byte) : Statement (.stepDec b) := by simp [Statement, encode, opselCodes]

theorem stepEnc (v : StepVal) : Statement (.stepEnc v) := by simp [Statement, encode, opselCodes]

theorem nameDecode (n : Nat) : Statement (.nameDecode n) := by simp [Statement, encode, opselCodes]

theorem nameEncode (n : Nat) (t : List Byte) : Statement (.nameEncode n t) := by simp [Statement, encode, opselCodes]

theorem fmDecode (i : Nat) : Statement (.fmDecode i) := by simp [Statement, encode, opselCodes]

theorem fmEncode (i : Nat) (v : Half) : Statement (.fmEncode i v) := by simp [Statement, encode, opselCodes]

theorem setGet (f : FieldName) : Statement (.setGet f) := by simp [Statement, encode, opselCodes]

theorem setPut (f : FieldName) (v : Byte) : Statement (.setPut f v) := by simp [Statement, encode, opselCodes]

theorem logoDecode (k : Nat) : Statement (.logoDecode k) := by simp [Statement, encode, opselCodes]

theorem logoEncode (k : Nat) (t : List Byte) : Statement (.logoEncode k t) := by simp [Statement, encode, opselCodes]

theorem pwdGet : Statement .pwdGet := by simp [Statement, encode, opselCodes]

theorem pwdPut (p : List Byte) : Statement (.pwdPut p) := by simp [Statement, encode, opselCodes]

theorem unlockGet (g : FieldName) : Statement (.unlockGet g) := by simp [Statement, encode, opselCodes]

theorem unlockPut (g : FieldName) (v : Byte) : Statement (.unlockPut g v) := by simp [Statement, encode, opselCodes]

theorem imgLoad (a : Nat) (s : List Byte) : Statement (.imgLoad a s) := by simp [Statement, encode, opselCodes]

theorem imgStore (a : Nat) (n : Nat) : Statement (.imgStore a n) := by simp [Statement, encode, opselCodes]

theorem deobf (s : List Byte) : Statement (.deobf s) := trivial

theorem xcvSend (cmd : List Byte) : Statement (.xcvSend cmd) := trivial

theorem xcvRecv : Statement .xcvRecv := trivial

theorem drvIdentify : Statement .drvIdentify := trivial

theorem drvRead (offset : Half) (length : Byte) : Statement (.drvRead offset length) := trivial

theorem drvWrite (data : List Byte) (offset : Half) : Statement (.drvWrite data offset) := trivial

theorem drvReset : Statement .drvReset := trivial

theorem syncDownload : Statement .syncDownload := trivial

theorem syncUpload : Statement .syncUpload := trivial

theorem wFrameHeader (length : Byte) : Statement (.wFrameHeader length) := rfl

theorem wFrameTrailer (ck0 ck1 : Byte) : Statement (.wFrameTrailer ck0 ck1) := rfl

theorem mChanRecord (freq offset : Word) (rxcode txcode codeFlag flagsA flagsB dtmfFlags step scrambler : Byte) :
    Statement (.mChanRecord freq offset rxcode txcode codeFlag flagsA flagsB dtmfFlags step scrambler) := by simp [Statement, encode, Instr.wellFormed]

theorem mNameRecord (text : List Byte) :
    Statement (.mNameRecord text) := by simp [Statement, encode, Instr.wellFormed]

theorem mFmEntry (value : Half) :
    Statement (.mFmEntry value) := by simp [Statement, encode, Instr.wellFormed]

theorem mSetFields (c : SetContent) : Statement (.mSetFields c) := by
  cases c <;> simp [Statement, encode, encodeSet, Instr.wellFormed, SetContent.wellFormed]

end Sys2Proof.Laws.OpselOfRow
end

