-- ==== Sys2Proof/Laws/Sequences.lean ====
section
/-! SUPPORT. The host sequences: what sending a command does, and, once, everything that can happen when a frame has ended
(`react_cases`); how deliveries compose. -/

namespace Sys2Proof.Machine

set_option Elab.async false

/-- The block after a command that fits has been sent (47 R231). -/
def State.sent (s : State) (cmd : List Byte) : State :=
  { s with len := BitVec.ofNat 8 cmd.length, crc := crcReg cmd, ki := BitVec.ofNat 4 (cmd.length + 2),
           txq := s.txq ++ frameBytes s.cfg cmd, err := ⟨0, 0⟩ }

theorem sendFrame_ok {s : State} {cmd : List Byte} (h : cmd.length ≤ 255) : s.sendFrame cmd = .ok (s.sent cmd) := by
  simp only [State.sendFrame, State.frameBuild]
  rw [if_neg (by omega)]
  simp [State.sent, State.txWrite, ErrReg.ok, obfIndex_eq, frameBody, halfBytes]

theorem sendFrame_long {s : State} {cmd : List Byte} (h : 255 < cmd.length) : s.sendFrame cmd = .error .tooLong := by
  simp only [State.sendFrame, State.frameBuild]
  rw [if_pos (by omega)]
  rfl

theorem sendAndWait_ok {s : State} {cmd : List Byte} (h : cmd.length ≤ 255) (q : HostSeq) :
    s.sendAndWait cmd q = (s.sent cmd).startParse q := by
  simp [State.sendAndWait, sendFrame_ok h]

theorem sendAndWait_long {s : State} {cmd : List Byte} (h : 255 < cmd.length) (q : HostSeq) :
    s.sendAndWait cmd q = s.raise .tooLong := by
  simp [State.sendAndWait, sendFrame_long h]

/-- Sending and waiting: it sends one frame and waits, or raises TOO_LONG. -/
theorem sendAndWait_cases (s : State) (cmd : List Byte) (q : HostSeq) :
    (cmd.length ≤ 255 ∧ s.sendAndWait cmd q = (s.sent cmd).startParse q) ∨ s.sendAndWait cmd q = s.raise .tooLong := by
  by_cases h : cmd.length ≤ 255
  · exact .inl ⟨h, sendAndWait_ok h q⟩
  · exact .inr (sendAndWait_long (by omega) q)

theorem rspRead_ok {r d : List Byte} {length : Byte} (h : rspRead r length = .ok d) : d.length = length.toNat := by
  simp only [rspRead] at h
  split at h
  · cases h
  · obtain rfl := Except.ok.inj h
    rw [List.length_take]; omega

theorem blockCause_ne_busy {c : Cause} (h : c ≠ .busy) : blockCause c ≠ .busy := by
  cases c <;> first | exact absurd rfl h | (simp [blockCause])

theorem readReply_ok {length : Byte} {e : ParseEnd} {d : List Byte} (h : readReply length e = .ok d) :
    d.length = length.toNat := by
  cases e with
  | ok p => exact rspRead_ok h
  | error c => cases h

theorem readReply_error {length : Byte} {e : ParseEnd} {c : Cause} (he : e ≠ .error .busy)
    (h : readReply length e = .error c) : c ≠ .busy := by
  cases e with
  | ok p =>
    simp only [readReply, rspRead] at h
    split at h
    · cases h; decide
    · cases h
  | error c' =>
    cases h
    exact blockCause_ne_busy fun hc => he (hc ▸ rfl)

theorem cmdWrite_error {c : Config} {data : List Byte} {offset : Half} {x : Cause} (h : cmdWrite c data offset = .error x) :
    x = .tooLong := by
  simp only [cmdWrite] at h
  split at h <;> cases h
  rfl

/-- What a state is after the host has gone on with sequence `q`: it has answered, raised, sent a command and waits, put a
whole download into the image, or sent the final reset. `L` says that the sequence it came from was at a legal place. -/
inductive Reacted (L : Prop) (s : State) : State → Prop where
  | answers (r : Result) (h : r ≠ .error .busy) : Reacted L s (s.succeed r)
  | raises (c : Cause) (h : c ≠ .busy) : Reacted L s (s.raise c)
  | waits (cmd : List Byte) (q : HostSeq) (hl : cmd.length ≤ 255) (hq : L → q.Legal) :
      Reacted L s ((s.sent cmd).startParse q)
  | loads (buf fw : List Byte) (h : 0 + buf.length ≤ Config.imgSize) :
      Reacted L s ((s.wrBytes 0 buf).succeed (.synced fw))
  | resets (cmd : List Byte) (hl : cmd.length ≤ 255) : Reacted L s ((s.sent cmd).succeed .done)

theorem reacted_sendAndWait {L : Prop} (s : State) (cmd : List Byte) {q : HostSeq} (hq : L → q.Legal) :
    Reacted L s (s.sendAndWait cmd q) := by
  rcases sendAndWait_cases s cmd q with ⟨hl, h⟩ | h
  · rw [h]; exact .waits cmd q hl hq
  · rw [h]; exact .raises .tooLong (by decide)

theorem reacted_uploadBlock {L : Prop} (s : State) {k : Nat} (hk : k ≤ 57) : Reacted L s (s.uploadBlock k) := by
  simp only [State.uploadBlock]
  split
  · exact reacted_sendAndWait s _ (q := .upload k) fun _ => hk
  · next c h => rw [cmdWrite_error h]; exact .raises .tooLong (by decide)

/-- The one inversion of `react`: nothing else can happen when a frame has ended. -/
theorem react_cases (s : State) (q : HostSeq) (e : ParseEnd) (he : e ≠ .error .busy) :
    Reacted q.Legal { s with seq := .ret } (s.react q e) := by
  cases q with
  | ret =>
    cases e with
    | ok p => exact .answers _ (by simp)
    | error c => exact .raises c fun h => he (h ▸ rfl)
  | identify k next =>
    cases e with
    | ok p =>
      cases next with
      | answer => exact .answers _ (by simp)
      | download => exact reacted_sendAndWait _ _ (q := .download 0 [] (rspIdent p)) fun _ => ⟨by omega, rfl⟩
      | upload => exact reacted_uploadBlock _ (by omega)
    | error c =>
      simp only [State.react]
      split
      · next h =>
        exact reacted_sendAndWait _ _ (q := .identify (k + 1) next)
          fun _ => ⟨by omega, by simp only [Config.identAttempts] at h; omega⟩
      · exact .raises .identFailed (by decide)
  | read length =>
    simp only [State.react]
    cases h : readReply length e with
    | ok d => exact .answers _ (by simp)
    | error c => exact .raises c (readReply_error he h)
  | write offset =>
    cases e with
    | ok p => exact .answers _ (by simp)
    | error c => exact .raises _ (blockCause_ne_busy fun h => he (h ▸ rfl))
  | download k buf fw =>
    simp only [State.react]
    cases h : readReply 128 e with
    | error c => exact .raises c (readReply_error he h)
    | ok d =>
      have hd := readReply_ok h
      simp only
      split
      · exact reacted_sendAndWait _ _ (q := .download (k + 1) (buf ++ d) fw)
          fun hq => ⟨by omega, by rw [List.length_append, hq.2, hd]; simp; omega⟩
      · simp only [State.finishDownload, memWriteBytes_eq]
        split
        · next hl => exact .loads _ _ hl
        · exact .raises .oob (by decide)
  | upload k =>
    simp only [State.react]
    cases e with
    | error c => exact .raises _ (blockCause_ne_busy fun h => he (h ▸ rfl))
    | ok p =>
      simp only [writeReply]
      cases rspWrite s.cfg p (BitVec.ofNat 16 (Config.block * k)) with
      | false => exact .raises .writeNak (by decide)
      | true =>
        simp only
        split
        · next h => exact reacted_uploadBlock _ (by omega)
        · simp only [State.sendReset]
          by_cases hl : (cmdReset s.cfg).length ≤ 255
          · rw [sendFrame_ok hl]; exact .resets _ hl
          · rw [sendFrame_long (by omega)]; exact .raises .tooLong (by decide)

/-- How one byte can end a reception (R117 to R119): never with BUSY, always in `IDLE`. -/
theorem rxByte_some {s t : State} {b : Byte} {e : ParseEnd} (h : s.rxByte b = (t, some e)) :
    e ≠ .error .busy ∧ t.rxs = .idle ∧ t.cnt = 0 ∧ t.busy = false := by
  simp only [State.rxByte, State.rxHeader, State.rxPayload, State.rxTrailer] at h
  split at h
  · cases h
  · split at h
    · cases h
    · split at h
      · next c hc =>
        cases h
        refine ⟨?_, rfl, rfl, rfl⟩
        simp only [headerCheck] at hc
        split at hc
        · cases hc; decide
        · split at hc <;> cases hc; decide
      · cases h
  · split at h <;> cases h
  · split at h
    · cases h
    · split at h <;> cases h
      · exact ⟨by simp, rfl, rfl, rfl⟩
      · exact ⟨by decide, rfl, rfl, rfl⟩

/-- What one byte leaves alone, whatever it does. -/
theorem rxByte_frame (s : State) (b : Byte) :
    (s.rxByte b).1 = { s with
      err := (s.rxByte b).1.err, busy := (s.rxByte b).1.busy, ki := (s.rxByte b).1.ki, len := (s.rxByte b).1.len,
      cnt := (s.rxByte b).1.cnt, hb := (s.rxByte b).1.hb, tb := (s.rxByte b).1.tb, rxb := (s.rxByte b).1.rxb,
      rxs := (s.rxByte b).1.rxs } := by
  simp only [State.rxByte, State.rxHeader, State.rxPayload, State.rxTrailer]
  split
  · rfl
  · split
    · rfl
    · split <;> rfl
  · split <;> rfl
  · split
    · rfl
    · split <;> rfl

end Sys2Proof.Machine
end

