-- ==== Sys2Proof/Laws/Step.lean ====
section
/-! SUPPORT. Everything a step can do, once (`step_cases`), and induction over the bytes a reception takes
(`feed_induct`): an invariant of the machine is then a short case analysis. -/

namespace Sys2Proof.Machine

set_option Elab.async false

/-- A property that survives every byte, every end of a frame and any change of `RXQ` survives a delivery. -/
theorem feed_induct {P : State → Prop} (hq : ∀ s q, P s → P { s with rxq := q })
    (hb : ∀ s b t, P s → s.rxs ≠ .idle → s.rxByte b = (t, none) → P t)
    (he : ∀ s b t e, P s → s.rxs ≠ .idle → s.rxByte b = (t, some e) → P (t.react t.seq e)) :
    ∀ (q : List Byte) (s : State), P s → P (feed q s) := by
  intro q
  induction q with
  | nil => intro s h; exact hq s [] h
  | cons b q ih =>
    intro s h
    by_cases hi : s.rxs = .idle
    · rw [feed_idle hi]; exact hq s _ h
    · rcases hr : s.rxByte b with ⟨t, _ | e⟩
      · rw [feed_cons_none hi hr]; exact ih t (hb s b t h hi hr)
      · rw [feed_cons_some hi hr]; exact ih _ (he s b t e h hi hr)

/-- The state an operation starts from (10_state.md R21). -/
abbrev State.started (s : State) : State := { s with busy := true }

/-- What a state can be after one instruction or event. -/
inductive Ran (s : State) : State → Prop where
  | refused (h : s.busy = true) : Ran s { s with out := .error .busy }
  | shows (r : Result) : Ran s { s with out := r }
  | answers (h : s.busy = false) (crc : BitVec 17) (ki : BitVec 4) (len : BitVec 8) (r : Result)
      (hc : crc = s.crc ∨ crc.getLsbD 16 = false) :
      Ran s (({ s.started with crc := crc, ki := ki, len := len } : State).succeed r)
  | raises (h : s.busy = false) (c : Cause) (hc : c ≠ .busy) : Ran s (s.started.raise c)
  | stores (h : s.busy = false) (a : Nat) (bs : List Byte) (hb : a + bs.length ≤ Config.imgSize) :
      Ran s ((s.started.wrBytes a bs).succeed .done)
  | storesTwice (h : s.busy = false) (a a' : Nat) (bs bs' : List Byte) (hb : a + bs.length ≤ Config.imgSize)
      (hb' : a' + bs'.length ≤ Config.imgSize) : Ran s (((s.started.wrBytes a bs).wrBytes a' bs').succeed .done)
  | sends (h : s.busy = false) (cmd : List Byte) (hl : cmd.length ≤ 255) : Ran s ((s.started.sent cmd).succeed .done)
  | receives (h : s.busy = false) : Ran s (feed s.rxq (s.started.startParse .ret))
  | exchanges (h : s.busy = false) (cmd : List Byte) (q : HostSeq) (hl : cmd.length ≤ 255) (hq : q.Legal) :
      Ran s (feed s.rxq ((s.started.sent cmd).startParse q))
  | arrives (bs : List Byte) : Ran s (feed (s.rxq ++ bs) s)
  | timesOut : Ran s s.timeoutEvent

theorem ran_read {α : Type} {s t : State} {f : State → Except Cause α} {g : State → α → Result}
    (hf : ∀ x c, f x = .error c → c ≠ .busy)
    (h : issue s (fun u => u.commit ((f u).map fun v => (u, g u v))) = .next t) : Ran s t := by
  cases hb : s.busy with
  | true => rw [issue_busy hb] at h; cases h; exact .refused hb
  | false =>
    rw [issue_idle hb] at h
    cases h
    cases hv : f s.started with
    | ok v => exact .answers hb s.crc s.ki s.len _ (.inl rfl)
    | error c => exact .raises hb c (hf _ _ hv)

theorem ran_value {s t : State} {f : State → Result} (h : issue s (fun u => u.succeed (f u)) = .next t) : Ran s t := by
  cases hb : s.busy with
  | true => rw [issue_busy hb] at h; cases h; exact .refused hb
  | false => rw [issue_idle hb] at h; cases h; exact .answers hb s.crc s.ki s.len _ (.inl rfl)

/-- An operation that stores once, or raises. -/
theorem ran_store {s t : State} {f : State → Except Cause State}
    (hf : ∀ x y, f x = .ok y → ∃ a bs, a + bs.length ≤ Config.imgSize ∧ y = x.wrBytes a bs)
    (hc : ∀ x c, f x = .error c → c ≠ .busy)
    (h : issue s (fun u => u.commit ((f u).map fun v => (v, .done))) = .next t) : Ran s t := by
  cases hb : s.busy with
  | true => rw [issue_busy hb] at h; cases h; exact .refused hb
  | false =>
    rw [issue_idle hb] at h
    cases h
    cases hv : f s.started with
    | ok v =>
      obtain ⟨a, bs, hl, rfl⟩ := hf _ _ hv
      exact .stores hb a bs hl
    | error c => exact .raises hb c (hc _ _ hv)

/-- Causes that the named operations raise are never BUSY. -/
theorem memReadBytes_ne_busy {s : State} {a n : Nat} {c : Cause} (h : s.memReadBytes a n = .error c) : c ≠ .busy := by
  rw [memReadBytes_eq] at h; split at h <;> cases h; decide

theorem memWriteBytes_ne_busy {s : State} {a : Nat} {bs : List Byte} {c : Cause} (h : s.memWriteBytes a bs = .error c) :
    c ≠ .busy := by
  rw [memWriteBytes_eq] at h; split at h <;> cases h; decide

theorem memReadByte_ne_busy {s : State} {a : Nat} {c : Cause} (h : s.memReadByte a = .error c) : c ≠ .busy := by
  rw [memReadByte_eq] at h; split at h <;> cases h; decide

theorem memReadHalf_ne_busy {s : State} {a : Nat} {c : Cause} (h : s.memReadHalf a = .error c) : c ≠ .busy := by
  rw [memReadHalf_eq] at h; split at h <;> cases h; decide

theorem channelSlot_ne_busy {n : Nat} {c : Cause} (h : channelSlot n = .error c) : c ≠ .busy := by
  unfold channelSlot at h; split at h <;> cases h; decide

theorem nameSlot_ne_busy {n : Nat} {c : Cause} (h : nameSlot n = .error c) : c ≠ .busy := by
  unfold nameSlot at h; split at h <;> cases h; decide

theorem fmAddr_ne_busy {x : Config} {n : Nat} {c : Cause} (h : fmAddr x n = .error c) : c ≠ .busy := by
  unfold fmAddr at h; split at h <;> cases h; decide

theorem logoAddr_ne_busy {x : Config} {n : Nat} {c : Cause} (h : logoAddr x n = .error c) : c ≠ .busy := by
  unfold logoAddr at h; split at h
  · cases h
  · split at h <;> cases h; decide

theorem fieldAddr_ne_busy {x : Config} {f : FieldName} {c : Cause} (h : fieldAddr x f = .error c) : c ≠ .busy := by
  unfold fieldAddr at h; split at h <;> cases h; decide

theorem flagAddr_ne_busy {x : Config} {f : FieldName} {c : Cause} (h : flagAddr x f = .error c) : c ≠ .busy := by
  unfold flagAddr at h; split at h <;> cases h; decide

theorem checkText_ne_busy {t : List Byte} {w : Nat} {c : Cause} (h : checkText t w = .error c) : c ≠ .busy := by
  unfold checkText at h; split at h
  · cases h; decide
  · split at h <;> cases h; decide

/-- Bind, taken apart. -/
theorem bind_error_cases {α β : Type} {x : Except Cause α} {f : α → Except Cause β} {c : Cause}
    (h : (x >>= f) = .error c) : x = .error c ∨ ∃ a, x = .ok a ∧ f a = .error c := by
  cases x with
  | error e => exact .inl (by simpa using h)
  | ok a => exact .inr ⟨a, rfl, h⟩

theorem bind_ok_cases {α β : Type} {x : Except Cause α} {f : α → Except Cause β} {b : β}
    (h : (x >>= f) = .ok b) : ∃ a, x = .ok a ∧ f a = .ok b := by
  cases x with
  | error e => cases h
  | ok a => exact ⟨a, rfl, h⟩

theorem channelRecord_ne_busy {s : State} {n : Nat} {c : Cause} (h : s.channelRecord n = .error c) : c ≠ .busy := by
  rcases bind_error_cases h with h | ⟨_, _, h⟩
  · exact channelSlot_ne_busy h
  · exact memReadBytes_ne_busy h

theorem toneEnc_error {x : Config} {t : Tone} {c : Cause} (h : toneEnc x t = .error c) : c = .tone := by
  unfold toneEnc toneCodeAt at h
  split at h
  · cases h
  all_goals split at h <;> cases h; rfl

theorem stepEnc_error {x : Config} {v : StepVal} {c : Cause} (h : stepEnc x v = .error c) : c = .step := by
  unfold stepEnc at h; split at h <;> cases h; rfl

theorem duplexEnc_error {x : Config} {d : Duplex} {o : Word} {c : Cause} (h : duplexEnc x d o = .error c) :
    c = .badDuplex := by
  unfold duplexEnc at h
  split at h
  · cases h
  all_goals split at h <;> cases h; rfl

theorem powerEnc_error {x : Config} {p : Power} {c : Cause} (h : powerEnc x p = .error c) : c = .badEnum := by
  unfold powerEnc at h
  split at h
  · cases h
  · cases h
  · cases h
  · split at h <;> cases h; rfl

theorem validate_ne_busy {x : Config} {ch : Chan} {c : Cause} (h : validate x ch = .error c) : c ≠ .busy := by
  unfold validate at h
  split at h
  · cases h; decide
  rcases bind_error_cases h with h | ⟨_, _, h⟩
  · rw [duplexEnc_error h]; decide
  rcases bind_error_cases h with h | ⟨_, _, h⟩
  · rw [toneEnc_error h]; decide
  rcases bind_error_cases h with h | ⟨_, _, h⟩
  · rw [toneEnc_error h]; decide
  rcases bind_error_cases h with h | ⟨_, _, h⟩
  · rw [powerEnc_error h]; decide
  rcases bind_error_cases h with h | ⟨_, _, h⟩
  · rw [stepEnc_error h]; decide
  split at h <;> cases h; decide

theorem eraseChannel_ne_busy {s : State} {n : Nat} {c : Cause} (h : s.eraseChannel n = .error c) : c ≠ .busy := by
  rcases bind_error_cases h with h | ⟨_, _, h⟩
  · exact channelSlot_ne_busy h
  rcases bind_error_cases h with h | ⟨_, _, h⟩
  · exact memWriteBytes_ne_busy h
  · split at h
    · exact memWriteBytes_ne_busy h
    · cases h

/-- What erasing writes. -/
theorem eraseChannel_ok {s t : State} {n : Nat} (h : s.eraseChannel n = .ok t) :
    ∃ a, a + 16 ≤ Config.imgSize ∧ (t = s.wrBytes a erasedRecord ∨
      ∃ a', a' + 16 ≤ Config.imgSize ∧ t = (s.wrBytes a erasedRecord).wrBytes a' erasedRecord) := by
  obtain ⟨slot, _, h⟩ := bind_ok_cases h
  obtain ⟨u, hu, h⟩ := bind_ok_cases h
  obtain ⟨h1, rfl, -⟩ := memWriteBytes_ok hu
  refine ⟨_, h1, ?_⟩
  split at h
  · obtain ⟨h2, rfl, -⟩ := memWriteBytes_ok h
    exact .inr ⟨_, h2, rfl⟩
  · cases h; exact .inl rfl

/-- A sequence on an idle block. -/
theorem ran_sequence {s t : State} {first : State → State} (h : runSequence s first = .next t)
    (hf : s.busy = false → Ran s (feed (first s.started).rxq (first s.started))) : Ran s t := by
  cases hb : s.busy with
  | true => rw [runSequence, issue_busy hb] at h; cases h; exact .refused hb
  | false => rw [runSequence, issue_idle hb] at h; cases h; exact hf hb

/-- A raised block keeps what is left in `RXQ`. -/
theorem feed_raise (s : State) (c : Cause) : feed (s.raise c).rxq (s.raise c) = s.raise c := by
  rw [feed_idle rfl]

theorem ran_sendAndWait {s : State} (hb : s.busy = false) (cmd : List Byte) {q : HostSeq} (hq : q.Legal) :
    Ran s (feed (s.started.sendAndWait cmd q).rxq (s.started.sendAndWait cmd q)) := by
  rcases sendAndWait_cases s.started cmd q with ⟨hl, h⟩ | h
  · rw [h]; exact .exchanges hb cmd q hl hq
  · rw [h, feed_raise]; exact .raises hb .tooLong (by decide)

/-- What an instruction can do. -/
theorem exec_cases {i : Instr} {s t : State} (h : exec i s = .next t) : Ran s t := by
  cases i
  case obf bs =>
    simp only [exec, execObf] at h
    cases hb : s.busy with
    | true => rw [issue_busy hb] at h; cases h; exact .refused hb
    | false => rw [issue_idle hb] at h; cases h; exact .answers hb s.crc _ s.len _ (.inl rfl)
  case deobf bs =>
    simp only [exec, execDeobf] at h
    cases hb : s.busy with
    | true => rw [issue_busy hb] at h; cases h; exact .refused hb
    | false => rw [issue_idle hb] at h; cases h; exact .answers hb s.crc _ s.len _ (.inl rfl)
  case crc16 bs =>
    simp only [exec, execCrc16] at h
    cases hb : s.busy with
    | true => rw [issue_busy hb] at h; cases h; exact .refused hb
    | false => rw [issue_idle hb] at h; cases h; exact .answers hb _ s.ki s.len _ (.inr (crcReg_bit16 bs))
  case frameBuild cmd =>
    simp only [exec, execFrameBuild] at h
    cases hb : s.busy with
    | true => rw [issue_busy hb] at h; cases h; exact .refused hb
    | false =>
      rw [issue_idle hb] at h
      cases h
      simp only [State.opFrameBuild, State.frameBuild]
      split
      · exact .raises hb .tooLong (by decide)
      · exact .answers hb _ _ _ _ (.inr (crcReg_bit16 cmd))
  case xcvSend cmd =>
    simp only [exec, execXcvSend] at h
    cases hb : s.busy with
    | true => rw [issue_busy hb] at h; cases h; exact .refused hb
    | false =>
      rw [issue_idle hb] at h
      cases h
      by_cases hl : cmd.length ≤ 255
      · rw [sendFrame_ok hl]; exact .sends hb cmd hl
      · rw [sendFrame_long (by omega)]; exact .raises hb .tooLong (by decide)
  case drvReset =>
    simp only [exec, execDrvReset] at h
    cases hb : s.busy with
    | true => rw [issue_busy hb] at h; cases h; exact .refused hb
    | false =>
      rw [issue_idle hb] at h
      cases h
      simp only [State.sendReset]
      by_cases hl : (cmdReset s.cfg).length ≤ 255
      · rw [sendFrame_ok hl]; exact .sends hb _ hl
      · rw [sendFrame_long (by omega)]; exact .raises hb .tooLong (by decide)
  case chErase n =>
    simp only [exec, execChErase] at h
    cases hb : s.busy with
    | true => rw [issue_busy hb] at h; cases h; exact .refused hb
    | false =>
      rw [issue_idle hb] at h
      cases h
      cases hv : s.started.eraseChannel n with
      | error c => exact .raises hb c (eraseChannel_ne_busy hv)
      | ok v =>
        obtain ⟨a, ha, rfl | ⟨a', ha', rfl⟩⟩ := eraseChannel_ok hv
        · exact .stores hb a _ ha
        · exact .storesTwice hb a a' _ _ ha ha'
  case chEncode n ch =>
    simp only [exec, execChEncode] at h
    cases hb : s.busy with
    | true => rw [issue_busy hb] at h; cases h; exact .refused hb
    | false =>
      rw [issue_idle hb] at h
      cases h
      cases ch with
      | empty =>
        cases hv : s.started.eraseChannel n with
        | error c => simp only [State.encodeChannel, hv]; exact .raises hb c (eraseChannel_ne_busy hv)
        | ok v =>
          simp only [State.encodeChannel, hv]
          obtain ⟨a, ha, rfl | ⟨a', ha', rfl⟩⟩ := eraseChannel_ok hv
          · exact .stores hb a _ ha
          · exact .storesTwice hb a a' _ _ ha ha'
      | chan ch =>
        cases hv : s.started.encodeChannel n (.chan ch) with
        | error c =>
          refine .raises hb c ?_
          simp only [State.encodeChannel] at hv
          rcases bind_error_cases hv with h | ⟨_, _, h⟩
          · exact channelSlot_ne_busy h
          rcases bind_error_cases h with h | ⟨_, _, h⟩
          · exact validate_ne_busy h
          rcases bind_error_cases h with h | ⟨_, _, h⟩
          · exact memReadBytes_ne_busy h
          · exact memWriteBytes_ne_busy h
        | ok v =>
          simp only [State.encodeChannel] at hv
          obtain ⟨_, _, hv⟩ := bind_ok_cases hv
          obtain ⟨_, _, hv⟩ := bind_ok_cases hv
          obtain ⟨_, _, hv⟩ := bind_ok_cases hv
          obtain ⟨h1, rfl, -⟩ := memWriteBytes_ok hv
          exact .stores hb _ _ h1
  case wFrameHeader l => cases h; exact .arrives _
  case wFrameTrailer k0 k1 => cases h; exact .arrives _
  case mChanRecord => cases h; exact .shows _
  case mNameRecord => cases h; exact .shows _
  case mFmEntry => cases h; exact .shows _
  case mSetFields => cases h; exact .shows _
  case cmdIdent => exact ran_value (f := fun u => .bytes (cmdIdent u.cfg)) h
  case rspIdent r => exact ran_value (f := fun _ => .bytes (rspIdent r)) h
  case cmdRead o l => exact ran_value (f := fun u => .bytes (cmdRead u.cfg o l)) h
  case rspWrite r o => exact ran_value (f := fun u => .bool (rspWrite u.cfg r o)) h
  case cmdReset => exact ran_value (f := fun u => .bytes (cmdReset u.cfg)) h
  case toneDec ty c => exact ran_value (f := fun u => .tone (toneDec u.cfg ty c)) h
  case stepDec b => exact ran_value (f := fun u => .step (stepDec u.cfg b)) h
  case rspRead r l =>
    refine ran_read (g := fun _ v => .bytes v) (f := fun _ => rspRead r l) (fun x c hc => ?_) h
    simp only [rspRead] at hc; split at hc <;> cases hc; decide
  case cmdWrite d o =>
    exact ran_read (g := fun _ v => .bytes v)
      (f := fun u => cmdWrite u.cfg d o) (fun x c hc => by rw [cmdWrite_error hc]; decide) h
  case chDecode n =>
    exact ran_read (g := fun u r => .channel (channelOf u.cfg r))
      (f := fun u => u.channelRecord n) (fun x c => channelRecord_ne_busy) h
  case chIsEmpty n =>
    exact ran_read (g := fun _ r => .bool (emptyFreq (wordAt r 0)))
      (f := fun u => u.channelRecord n) (fun x c => channelRecord_ne_busy) h
  case toneEnc v =>
    exact ran_read (g := fun _ p => .toneCode p.1 p.2)
      (f := fun u => toneEnc u.cfg v) (fun x c hc => by rw [toneEnc_error hc]; decide) h
  case stepEnc v =>
    exact ran_read (g := fun _ v => .stepIndex v)
      (f := fun u => stepEnc u.cfg v) (fun x c hc => by rw [stepEnc_error hc]; decide) h
  case nameDecode n =>
    refine ran_read (g := fun _ v => .bytes v) (f := fun u => u.nameDecode n) (fun x c hc => ?_) h
    rcases bind_error_cases hc with h | ⟨_, _, h⟩
    · exact nameSlot_ne_busy h
    rcases bind_error_cases h with h | ⟨_, _, h⟩
    · exact memReadBytes_ne_busy h
    · cases h
  case logoDecode k =>
    refine ran_read (g := fun _ v => .bytes v) (f := fun u => u.logoDecode k) (fun x c hc => ?_) h
    rcases bind_error_cases hc with h | ⟨_, _, h⟩
    · exact logoAddr_ne_busy h
    rcases bind_error_cases h with h | ⟨_, _, h⟩
    · exact memReadBytes_ne_busy h
    · cases h
  case fmDecode i =>
    refine ran_read (g := fun _ v => .half v) (f := fun u => do u.memReadHalf (← fmAddr u.cfg i)) (fun x c hc => ?_) h
    rcases bind_error_cases hc with h | ⟨_, _, h⟩
    · exact fmAddr_ne_busy h
    · exact memReadHalf_ne_busy h
  case setGet f =>
    refine ran_read (g := fun _ v => .byte v) (f := fun u => do u.memReadByte (← fieldAddr u.cfg f)) (fun x c hc => ?_) h
    rcases bind_error_cases hc with h | ⟨_, _, h⟩
    · exact fieldAddr_ne_busy h
    · exact memReadByte_ne_busy h
  case unlockGet g =>
    refine ran_read (g := fun _ v => .byte v) (f := fun u => do u.memReadByte (← flagAddr u.cfg g)) (fun x c hc => ?_) h
    rcases bind_error_cases hc with h | ⟨_, _, h⟩
    · exact flagAddr_ne_busy h
    · exact memReadByte_ne_busy h
  case pwdGet =>
    exact ran_read (g := fun _ v => .bytes v)
      (f := fun u => u.memReadBytes u.cfg.settingsMap.password u.cfg.pwdLen)
      (fun x c => memReadBytes_ne_busy) h
  case imgStore a n =>
    exact ran_read (g := fun _ v => .bytes v) (f := fun u => u.memReadBytes a n) (fun x c => memReadBytes_ne_busy) h
  case imgLoad a bs =>
    refine ran_store (f := fun u => u.memWriteBytes a bs) (fun x y hy => ?_) (fun x c => memWriteBytes_ne_busy) h
    obtain ⟨h1, h2, -⟩ := memWriteBytes_ok hy
    exact ⟨_, _, h1, h2⟩
  case pwdPut p =>
    refine ran_store (f := fun u => u.pwdPut p) (fun x y hy => ?_) (fun x c hc => ?_) h
    · simp only [State.pwdPut] at hy; split at hy
      · cases hy
      · obtain ⟨h1, h2, -⟩ := memWriteBytes_ok hy
        exact ⟨_, _, h1, h2⟩
    · simp only [State.pwdPut] at hc; split at hc
      · cases hc; decide
      · exact memWriteBytes_ne_busy hc
  case nameEncode n txt =>
    refine ran_store (f := fun u => u.nameEncode n txt) (fun x y hy => ?_) (fun x c hc => ?_) h
    · obtain ⟨_, _, hy⟩ := bind_ok_cases hy
      obtain ⟨_, _, hy⟩ := bind_ok_cases hy
      obtain ⟨h1, h2, -⟩ := memWriteBytes_ok hy
      exact ⟨_, _, h1, h2⟩
    · rcases bind_error_cases hc with h | ⟨_, _, h⟩
      · exact nameSlot_ne_busy h
      rcases bind_error_cases h with h | ⟨_, _, h⟩
      · exact checkText_ne_busy h
      · exact memWriteBytes_ne_busy h
  case logoEncode k txt =>
    refine ran_store (f := fun u => u.logoEncode k txt) (fun x y hy => ?_) (fun x c hc => ?_) h
    · obtain ⟨_, _, hy⟩ := bind_ok_cases hy
      obtain ⟨_, _, hy⟩ := bind_ok_cases hy
      obtain ⟨h1, h2, -⟩ := memWriteBytes_ok hy
      exact ⟨_, _, h1, h2⟩
    · rcases bind_error_cases hc with h | ⟨_, _, h⟩
      · exact logoAddr_ne_busy h
      rcases bind_error_cases h with h | ⟨_, _, h⟩
      · exact checkText_ne_busy h
      · exact memWriteBytes_ne_busy h
  case fmEncode i v =>
    refine ran_store (f := fun u => do u.memWriteBytes (← fmAddr u.cfg i) (halfBytes v)) (fun x y hy => ?_)
      (fun x c hc => ?_) h
    · obtain ⟨_, _, hy⟩ := bind_ok_cases hy
      obtain ⟨h1, h2, -⟩ := memWriteBytes_ok hy
      exact ⟨_, _, h1, h2⟩
    · rcases bind_error_cases hc with h | ⟨_, _, h⟩
      · exact fmAddr_ne_busy h
      · exact memWriteBytes_ne_busy h
  case setPut f v =>
    refine ran_store (f := fun u => do u.memWriteBytes (← fieldAddr u.cfg f) [v]) (fun x y hy => ?_)
      (fun x c hc => ?_) h
    · obtain ⟨_, _, hy⟩ := bind_ok_cases hy
      obtain ⟨h1, h2, -⟩ := memWriteBytes_ok hy
      exact ⟨_, _, h1, h2⟩
    · rcases bind_error_cases hc with h | ⟨_, _, h⟩
      · exact fieldAddr_ne_busy h
      · exact memWriteBytes_ne_busy h
  case unlockPut g v =>
    refine ran_store (f := fun u => do u.memWriteBytes (← flagAddr u.cfg g) [v]) (fun x y hy => ?_)
      (fun x c hc => ?_) h
    · obtain ⟨_, _, hy⟩ := bind_ok_cases hy
      obtain ⟨h1, h2, -⟩ := memWriteBytes_ok hy
      exact ⟨_, _, h1, h2⟩
    · rcases bind_error_cases hc with h | ⟨_, _, h⟩
      · exact flagAddr_ne_busy h
      · exact memWriteBytes_ne_busy h
  case frameParse => exact ran_sequence (first := fun u => u.startParse .ret) h fun hb => .receives hb
  case xcvRecv => exact ran_sequence (first := fun u => u.startParse .ret) h fun hb => .receives hb
  case drvIdentify =>
    exact ran_sequence (first := fun u => u.identAttempt 1 .answer) h fun hb =>
      ran_sendAndWait hb _ (q := .identify 1 .answer) ⟨by omega, by omega⟩
  case syncDownload =>
    exact ran_sequence (first := fun u => u.identAttempt 1 .download) h fun hb =>
      ran_sendAndWait hb _ (q := .identify 1 .download) ⟨by omega, by omega⟩
  case syncUpload =>
    exact ran_sequence (first := fun u => u.identAttempt 1 .upload) h fun hb =>
      ran_sendAndWait hb _ (q := .identify 1 .upload) ⟨by omega, by omega⟩
  case drvRead o l =>
    exact ran_sequence (first := fun u => u.sendAndWait (cmdRead u.cfg o l) (.read l)) h fun hb =>
      ran_sendAndWait hb _ (q := .read l) trivial
  case drvWrite d o =>
    refine ran_sequence (first := fun u => match cmdWrite u.cfg d o with
      | .ok cmd => u.sendAndWait cmd (.write o)
      | .error c => u.raise c) h fun hb => ?_
    cases hc : cmdWrite s.started.cfg d o with
    | ok cmd => exact ran_sendAndWait hb cmd (q := .write o) trivial
    | error c =>
      simp only
      rw [feed_raise, cmdWrite_error hc]
      exact .raises hb .tooLong (by decide)

theorem ran_unknown {s t : State} (h : issueUnknown s = .next t) : Ran s t := by
  unfold issueUnknown at h
  cases hb : s.busy with
  | true => rw [issue_busy hb] at h; cases h; exact .refused hb
  | false => rw [issue_idle hb] at h; cases h; exact .raises hb .badOp (by decide)

theorem reacted_inq {L : Prop} {s t : State} (h : Reacted L s t) : t.inq = s.inq := by cases h <;> rfl

/-- No operation and no event writes the inputs to come: only the host's program does (`hostAfter`). -/
theorem ran_inq {s t : State} (h : Ran s t) : t.inq = s.inq := by
  have hf : ∀ (q : List Byte) (u : State), u.inq = s.inq → (feed q u).inq = s.inq :=
    feed_induct (P := fun u => u.inq = s.inq) (fun _ _ h => h)
      (fun u b v h _ hb => by have := congrArg State.inq (rxByte_frame u b); rw [hb] at this; exact this.trans h)
      (fun u b v e h _ hb => by
        have := congrArg State.inq (rxByte_frame u b)
        rw [hb] at this
        exact (reacted_inq (react_cases v v.seq e (rxByte_some hb).1)).trans (this.trans h))
  cases h with
  | receives | exchanges | arrives => exact hf _ _ rfl
  | timesOut =>
    unfold State.timeoutEvent
    split
    · rfl
    · next c hc =>
      refine hf _ _ ((reacted_inq (react_cases (s.finish c.errReg) s.seq (.error c) fun h => ?_)).trans rfl)
      cases h
      cases hr : s.rxs <;> rw [hr] at hc <;> cases hc
  | _ => rfl

theorem afterRaise_nil (c : Cause) : afterRaise c [] = [] := rfl

/-- What the host does after a step: its program goes on, or an operation has raised and the inputs to come are those of
`afterRaise`; of the state it changes nothing else. -/
theorem hostAfter_eq (inp : Input) {s t : State} (h : t.inq = s.inq) :
    hostAfter inp s t = match raisedIn inp s t with
      | some c => { t with inq := afterRaise c s.inq }
      | none => t := by
  unfold hostAfter
  split
  · next hs =>
    have ht : t = { t with inq := [] } := by rw [← hs, ← h]
    cases raisedIn inp s t with
    | none => rfl
    | some c => simpa only [hs, afterRaise_nil] using ht
  · cases raisedIn inp s t with
    | none => rfl
    | some c => simp only [h]

/-- What the environment does before the next line of the program stays, handled or not. -/
theorem afterRaise_append (c : Cause) {pre : List Input} (h : ∀ inp ∈ pre, inProgram inp = false) (more : List Input) :
    afterRaise c (pre ++ more) = pre ++ afterRaise c more := by
  induction pre with
  | nil => rfl
  | cons inp pre ih =>
    have hi := h inp List.mem_cons_self
    have hh : handled c (inp :: (pre ++ more)) = handled c (pre ++ more) := by cases inp <;> first | rfl | cases hi
    rw [List.cons_append, List.cons_append, ← ih fun x hx => h x (List.mem_cons_of_mem _ hx), afterRaise, afterRaise, hh]
    split
    · rfl
    · rw [List.filter_cons, hi]; rfl

/-- What a step can do: with no input nothing; else `Ran` on the state behind the input, and then the host's program goes
on or ends. -/
theorem step_cases {s t : State} (h : step s = .next t) :
    (s.inq = [] ∧ t = s) ∨ ∃ inp more u, s.inq = inp :: more ∧ Ran { s with inq := more } u ∧ u.inq = more ∧
      t = match raisedIn inp { s with inq := more } u with
        | some c => { u with inq := afterRaise c more }
        | none => u := by
  unfold step at h
  split at h
  · next hi => cases h; exact .inl ⟨hi, rfl⟩
  · next inp more hi =>
    have key : ∀ o, hostRuns inp { s with inq := more } o = .next t → (∀ u, o = .next u → Ran { s with inq := more } u) →
        ∃ u, Ran { s with inq := more } u ∧ u.inq = more ∧ t = match raisedIn inp { s with inq := more } u with
          | some c => { u with inq := afterRaise c more }
          | none => u := by
      intro o ho hr
      cases o with
      | next u =>
        have hu := hr u rfl
        cases ho
        exact ⟨u, hu, ran_inq hu, hostAfter_eq inp (ran_inq hu)⟩
      | fault r => cases ho
      | refused r => cases ho
    refine .inr ⟨inp, more, ?_⟩
    obtain ⟨u, h1, h2, h3⟩ := key _ h fun u hu => by
      split at hu
      · exact exec_cases hu
      · cases inp with
        | issue op a => exact ran_unknown hu
        | call m a => exact ran_unknown hu
        | line bs => cases hu; exact .arrives bs
        | record f bs => cases hu
        | timeout => cases hu; exact .timesOut
        | onError k a => cases hu; exact .shows _
    exact ⟨u, hi, h1, h2, h3⟩

end Sys2Proof.Machine
end

