-- ==== Sys2Proof/Tests/P0.lean ====
section
/-! SUPPORT. The reference instantiation `P0` (93_implementation_defined.md part 2), from general knowledge and not
normative: used for the `[P0]` vectors of 95_test_vectors.md and as the witness that hypotheses on parameters can be met.
No definition of the model and no obligation uses it. -/

namespace Sys2Proof.Tests

open Sys2Proof.Machine

/-- `CTCSS` in tenths of a hertz (93 section 2.4). -/
def p0Ctcss : List Nat :=
  [670, 693, 719, 744, 770, 797, 825, 854, 885, 915] ++
  [948, 974, 1000, 1035, 1072, 1109, 1148, 1188, 1230, 1273] ++
  [1318, 1365, 1413, 1462, 1514, 1567, 1598, 1622, 1655, 1679] ++
  [1713, 1738, 1773, 1799, 1835, 1862, 1899, 1928, 1966, 1995] ++
  [2035, 2065, 2107, 2181, 2257, 2291, 2336, 2418, 2503, 2541]

/-- `DCS` (93 section 2.4). -/
def p0Dcs : List Nat :=
  [23, 25, 26, 31, 32, 36, 43, 47, 51, 53, 54, 65, 71, 72, 73, 74] ++
  [114, 115, 116, 122, 125, 131, 132, 134, 143, 145, 152, 155, 156, 162, 165, 172, 174] ++
  [205, 212, 223, 225, 226, 243, 244, 245, 246, 251, 252, 255, 261, 263, 265, 266, 271, 274] ++
  [306, 311, 315, 325, 331, 332, 343, 346, 351, 356, 364, 365, 371] ++
  [411, 412, 413, 423, 431, 432, 445, 446, 452, 454, 455, 462, 464, 465, 466] ++
  [503, 506, 516, 523, 526, 532, 546, 565] ++
  [606, 612, 624, 627, 631, 632, 654, 662, 664] ++
  [703, 712, 723, 731, 732, 734, 743, 754]

/-- `P0`, starting from the all-`0xFF` image (the canonical test image, 10_state.md R31). -/
def p0 : Config where
  keyTable := #v[0x16, 0x6C, 0x14, 0xE6, 0x2E, 0x91, 0x0D, 0x40, 0x21, 0x35, 0xD5, 0x40, 0x13, 0x03, 0xE9, 0x80]
  identPrefixBytes := #v[0x14, 0x05, 0x04, 0x00]
  readPrefix := [0x1B, 0x05, 0x08, 0x00]
  readPad := [0x00]
  wpLen := 4
  writePrefixTable := ⟨((List.range 256).map fun d => #v[0x1D, 0x05, BitVec.ofNat 8 (d + 8), 0x00]).toArray, by simp⟩
  writeFlag := 0x01
  resetCmdBytes := #v[0xDD, 0x05, 0x00, 0x00]
  writeAckOpc := 0x1E
  ackOpcPos := 0
  ackOffLoPos := 4
  ackOffHiPos := 5
  chBase := 0x0000
  nameBase := 0x0F50
  fmBase := 0x0E40
  fDuplex := ⟨11, 0, 2⟩
  fAm := ⟨11, 4, 1⟩
  fBw := ⟨12, 1, 1⟩
  fRev := ⟨12, 0, 1⟩
  fPower := ⟨12, 2, 2⟩
  fBclo := ⟨12, 4, 1⟩
  fPttid := ⟨13, 1, 2⟩
  fDtmfdec := ⟨13, 0, 1⟩
  fScr := ⟨15, 0, 4⟩
  scrMax := 10
  dupPlus := 1
  dupMinus := 2
  dupNone := 0
  pwrLow := 0
  pwrMed := 1
  pwrHigh := 2
  ctcssTable := ⟨p0Ctcss.toArray, rfl⟩
  dcs := p0Dcs
  stepTop := 7
  stepTable := #v[100, 250, 500, 625, 1000, 1250, 2500, 833]
  stepDefault := 250
  settingsMap := { squelch := 0x0E71, voxLevel := 0x0E76, micGain := 0x0E77, displayMode := 0x0E79, crossband := 0x0E7A, dualWatch := 0x0E7C, beep := 0x0E90, scanResume := 0x0E95, keypadLock := 0x0E96, poweronDisplay := 0x0E97, language := 0x0EA1, alarmMode := 0x0EA8, endOfTalk := 0x0EA9, rte := 0x0EAA, flock := 0x0F40, logo1 := 0x0EB0, logo2 := 0x0EC0, password := 0x0E98 }
  pwdLen := 4
  unlockFlags := [(ascii "tx350", 0x0F41), (ascii "killed", 0x0F42), (ascii "tx200", 0x0F43), (ascii "tx500", 0x0F44),
    (ascii "en350", 0x0F45), (ascii "enscramble", 0x0F46)]
  startImage := []

/-- The state after reset with `P0` and an erased image. -/
def s0 : State := { State.reset with cfg := p0 }

/-- `s0` with bytes already received. -/
def s0rx (q : List Byte) : State := { s0 with rxq := q }

/-- `s0` with bytes stored in the image from an address on. -/
def s0img (a : Nat) (bs : List Byte) : State := s0.wrBytes a bs

/-- The next state of an instruction (the state itself where there is none). -/
def after (i : Instr) (s : State) : State :=
  match exec i s with
  | .next t => t
  | _ => s

/-- Two instructions one after the other. -/
def after2 (i j : Instr) (s : State) : State := after j (after i s)

/-- The frame `g` of 95 V47: the identify reply "k5_2.01.23". -/
def frameG : List Byte :=
  [0xAB, 0xCD, 0x12, 0x00, 0x03, 0x69, 0x30, 0xE6, 0x04, 0xFA, 0x38, 0x1F, 0x13, 0x1B, 0xE5, 0x71, 0x3D, 0x31, 0xDA, 0x80,
   0x16, 0x6C, 0x23, 0x35, 0xDC, 0xBA]

/-- The reset frame V43-2. -/
def frameReset : List Byte := [0xAB, 0xCD, 0x04, 0x00, 0xCB, 0x69, 0x14, 0xE6, 0x5B, 0xEB, 0xDC, 0xBA]

/-- The identify frame V43-3. -/
def frameIdent : List Byte :=
  [0xAB, 0xCD, 0x08, 0x00, 0x02, 0x69, 0x10, 0xE6, 0x44, 0xA8, 0x5A, 0x24, 0xB9, 0xA9, 0xDC, 0xBA]

/-- The record of V45-1. -/
def record1 : List Byte :=
  [0xF0, 0x03, 0xDE, 0x00, 0x60, 0xEA, 0x00, 0x00, 0x08, 0x03, 0x31, 0x02, 0x0A, 0x03, 0x0A, 0x00]

/-- The channel of V45-1. -/
def chan1 : Chan where
  freq10 := 14550000
  offset10 := 60000
  duplex := .minus
  rxTone := .ctcss 885
  txTone := .dcs 31 true
  am := false
  narrow := true
  reverse := false
  bclo := false
  power := .high
  pttid := 1
  dtmfDecode := true
  step := 1250
  scrambler := 0

/-- The channel of V45-3, `mk()` of 95. -/
def mk : Chan where
  freq10 := 14652000
  offset10 := 0
  duplex := .dupNone
  rxTone := .noTone
  txTone := .noTone
  am := false
  narrow := false
  reverse := false
  bclo := false
  power := .high
  pttid := 0
  dtmfDecode := false
  step := 1250
  scrambler := 0

end Sys2Proof.Tests
end

