-- ==== Sys2Proof/Tests/Slice0.lean ====
section
/-! SUPPORT. Tests: the checks of `WellFormed`, words written out from the encoding tables of 30_encoding.md, vectors of
95_test_vectors.md (their ids are in the names and comments), and for every obligation with hypotheses a state and operands
that meet them, named `wit_` and the obligation. Every expected value is the spec's. -/

namespace Sys2Proof.Tests

open Sys2Proof.Machine

set_option maxRecDepth 100000
set_option Elab.async false

/-- What an instruction answers. -/
abbrev ans (i : Instr) (s : State) : Result := (after i s).out

/-! ### WellFormed: each check refuses an ill-formed term -/

theorem test_wf_name_short : (Instr.mNameRecord (rep 0x20 15)).wellFormed = false := by decide
theorem test_wf_name_long : (Instr.mNameRecord (rep 0x20 17)).wellFormed = false := by decide
theorem test_wf_logo1 : (Instr.mSetFields (.logo1 (rep 0x20 12))).wellFormed = false := by decide
theorem test_wf_logo2 : (Instr.mSetFields (.logo2 (rep 0x20 17))).wellFormed = false := by decide
theorem test_wf_admits : (Instr.mNameRecord (rep 0x20 16)).wellFormed = true := by decide

/-! ### Decode: the codes of R81, the names of R82, the patterns of R63 and R64, the layouts of R68, R76, R77, R78 -/

theorem test_dec_obf : decode (.issue 0x01 { seq := [1] }) = .ok (.obf [1]) := by rfl
theorem test_dec_crc16 : decode (.issue 0x02 { seq := [1] }) = .ok (.crc16 [1]) := by rfl
theorem test_dec_frameBuild : decode (.issue 0x10 { seq := [1] }) = .ok (.frameBuild [1]) := by rfl
theorem test_dec_frameParse : decode (.issue 0x11 {}) = .ok .frameParse := by rfl
theorem test_dec_cmdIdent : decode (.issue 0x20 {}) = .ok .cmdIdent := by rfl
theorem test_dec_rspIdent : decode (.issue 0x21 { seq := [1] }) = .ok (.rspIdent [1]) := by rfl
theorem test_dec_cmdRead : decode (.issue 0x22 { half := 0x1F80, byte := 128 }) = .ok (.cmdRead 0x1F80 128) := by rfl
theorem test_dec_rspRead : decode (.issue 0x23 { seq := [1], byte := 4 }) = .ok (.rspRead [1] 4) := by rfl
theorem test_dec_cmdWrite : decode (.issue 0x24 { seq := [1], half := 0x0E70 }) = .ok (.cmdWrite [1] 0x0E70) := by rfl
theorem test_dec_rspWrite : decode (.issue 0x25 { seq := [1], half := 0x0E70 }) = .ok (.rspWrite [1] 0x0E70) := by rfl
theorem test_dec_cmdReset : decode (.issue 0x26 {}) = .ok .cmdReset := by rfl
theorem test_dec_chDecode : decode (.issue 0x30 { num := 5 }) = .ok (.chDecode 5) := by rfl
theorem test_dec_chEncode : decode (.issue 0x31 { num := 5, chan := .chan mk }) = .ok (.chEncode 5 (.chan mk)) := by rfl
theorem test_dec_chErase : decode (.issue 0x32 { num := 5 }) = .ok (.chErase 5) := by rfl
theorem test_dec_chIsEmpty : decode (.issue 0x33 { num := 5 }) = .ok (.chIsEmpty 5) := by rfl
theorem test_dec_toneDec : decode (.issue 0x34 { toneType := 1, byte := 8 }) = .ok (.toneDec 1 8) := by rfl
theorem test_dec_toneEnc : decode (.issue 0x35 { tone := .ctcss 885 }) = .ok (.toneEnc (.ctcss 885)) := by rfl
theorem test_dec_stepDec : decode (.issue 0x36 { byte := 0x0A }) = .ok (.stepDec 0x0A) := by rfl
theorem test_dec_stepEnc : decode (.issue 0x37 { step := 1250 }) = .ok (.stepEnc 1250) := by rfl
theorem test_dec_nameDecode : decode (.issue 0x40 { num := 5 }) = .ok (.nameDecode 5) := by rfl
theorem test_dec_nameEncode : decode (.issue 0x41 { num := 5, seq := [0x41] }) = .ok (.nameEncode 5 [0x41]) := by rfl
theorem test_dec_fmDecode : decode (.issue 0x42 { num := 15 }) = .ok (.fmDecode 15) := by rfl
theorem test_dec_fmEncode : decode (.issue 0x43 { num := 15, half := 1080 }) = .ok (.fmEncode 15 1080) := by rfl
theorem test_dec_setGet : decode (.issue 0x44 { name := [0x41] }) = .ok (.setGet [0x41]) := by rfl
theorem test_dec_setPut : decode (.issue 0x45 { name := [0x41], byte := 2 }) = .ok (.setPut [0x41] 2) := by rfl
theorem test_dec_logoDecode : decode (.issue 0x46 { num := 2 }) = .ok (.logoDecode 2) := by rfl
theorem test_dec_logoEncode : decode (.issue 0x47 { num := 2, seq := [0x41] }) = .ok (.logoEncode 2 [0x41]) := by rfl
theorem test_dec_pwdGet : decode (.issue 0x48 {}) = .ok .pwdGet := by rfl
theorem test_dec_pwdPut : decode (.issue 0x49 { seq := [1, 2] }) = .ok (.pwdPut [1, 2]) := by rfl
theorem test_dec_unlockGet : decode (.issue 0x4A { name := [0x41] }) = .ok (.unlockGet [0x41]) := by rfl
theorem test_dec_unlockPut : decode (.issue 0x4B { name := [0x41], byte := 1 }) = .ok (.unlockPut [0x41] 1) := by rfl
theorem test_dec_imgLoad : decode (.issue 0x50 { num := 8190, seq := [1] }) = .ok (.imgLoad 8190 [1]) := by rfl
theorem test_dec_imgStore : decode (.issue 0x51 { num := 8190, count := 2 }) = .ok (.imgStore 8190 2) := by rfl
theorem test_dec_badOpsel : decode (.issue 0x03 {}) = .error .badOpsel := by rfl
theorem test_dec_deobf : decode (.call .deobf { seq := [1] }) = .ok (.deobf [1]) := by rfl
theorem test_dec_xcvSend : decode (.call .xcvSend { seq := [1] }) = .ok (.xcvSend [1]) := by rfl
theorem test_dec_xcvRecv : decode (.call .xcvRecv {}) = .ok .xcvRecv := by rfl
theorem test_dec_drvIdentify : decode (.call .drvIdentify {}) = .ok .drvIdentify := by rfl
theorem test_dec_drvRead : decode (.call .drvRead { half := 1, byte := 2 }) = .ok (.drvRead 1 2) := by rfl
theorem test_dec_drvWrite : decode (.call .drvWrite { seq := [3], half := 1 }) = .ok (.drvWrite [3] 1) := by rfl
theorem test_dec_drvReset : decode (.call .drvReset {}) = .ok .drvReset := by rfl
theorem test_dec_syncDownload : decode (.call .syncDownload {}) = .ok .syncDownload := by rfl
theorem test_dec_syncUpload : decode (.call .syncUpload {}) = .ok .syncUpload := by rfl
theorem test_dec_header : decode (.line [0xAB, 0xCD, 0x12, 0x00]) = .ok (.wFrameHeader 0x12) := by rfl
theorem test_dec_trailer : decode (.line [0x23, 0x35, 0xDC, 0xBA]) = .ok (.wFrameTrailer 0x23 0x35) := by rfl
theorem test_dec_line_other : decode (.line [0xAB, 0xCE, 0x12, 0x00]) = .error .notFramePart := by rfl
/-- The record of V45-1, by the byte numbers of R68. -/
theorem test_dec_chanRecord : decode (.record .chan record1) =
    .ok (.mChanRecord 0x00DE03F0 0x0000EA60 0x08 0x03 0x31 0x02 0x0A 0x03 0x0A 0x00) := by rfl
theorem test_dec_nameRecord : decode (.record .name (rep 0x41 16)) = .ok (.mNameRecord (rep 0x41 16)) := by rfl
theorem test_dec_fmEntry : decode (.record .fm [0x6C, 0x03]) = .ok (.mFmEntry 876) := by rfl
theorem test_dec_setFields : decode (.record (.set .beep) [0xFF]) = .ok (.mSetFields (.byteField .beep 0xFF)) := by rfl
theorem test_dec_badRecord : decode (.record .chan [0x00]) = .error .badRecord := by rfl

/-- The row of `W-FRAME.header`, as the table numbers its bits. -/
theorem test_table_header : decodeTableWord 32 0xABCD1200 = some (.wFrameHeader 0x12) := by decide
theorem test_table_fm : decodeTableWord 16 0x036C = some (.mFmEntry 876) := by decide

/-! ### Obfuscation and checksum -/

/-- V41-5. -/
theorem test_obf : ans (.obf [0x00, 0x01, 0x02, 0x03, 0x04, 0x05, 0x06, 0x07, 0x08, 0x09, 0x0A, 0x0B, 0x0C, 0x0D, 0x0E, 0x0F,
    0x10, 0x11, 0x12, 0x13]) s0 =
    .bytes [0x16, 0x6D, 0x16, 0xE5, 0x2A, 0x94, 0x0B, 0x47, 0x29, 0x3C, 0xDF, 0x4B, 0x1F, 0x0E, 0xE7, 0x8F, 0x06, 0x7D,
      0x06, 0xF5] := by decide
/-- V41-6. -/
theorem test_deobf : ans (.deobf [0xE9, 0x93, 0xEB]) s0 = .bytes [0xFF, 0xFF, 0xFF] := by decide
/-- V42-8. -/
theorem test_crc16 : ans (.crc16 [0x31, 0x32, 0x33, 0x34, 0x35, 0x36, 0x37, 0x38, 0x39]) s0 = .half 0x31C3 := by decide
/-- V42-4 and V42-5. -/
theorem test_crc16_byte : ans (.crc16 [0x80]) s0 = .half 0x9188 ∧ ans (.crc16 [0xFF]) s0 = .half 0x1EF0 := by decide

/-! ### Framing -/

/-- V43-2 and V43-1. -/
theorem test_frameBuild : ans (.frameBuild [0xDD, 0x05, 0x00, 0x00]) s0 = .bytes frameReset ∧
    ans (.frameBuild []) s0 = .bytes [0xAB, 0xCD, 0x00, 0x00, 0x16, 0x6C, 0xDC, 0xBA] := by decide
/-- V43-8. -/
theorem test_frameBuild_tooLong : after (.frameBuild (rep 0 256)) s0 = s0.failed 5 1 .tooLong := by decide
/-- V43-11. -/
theorem test_frameParse : ans .frameParse (s0rx (frameReset ++ [0x11, 0x22])) = .bytes [0xDD, 0x05, 0x00, 0x00] ∧
    (after .frameParse (s0rx (frameReset ++ [0x11, 0x22]))).rxq = [0x11, 0x22] := by decide
/-- V43-22: the head is checked before the reserved byte. -/
theorem test_frameParse_badHead : (after .frameParse (s0rx ([0x00, 0xCD, 0x04, 0x01] ++ frameReset.drop 4))).err = ⟨1, 1⟩ ∧
    (after .frameParse (s0rx ([0x00, 0xCD, 0x04, 0x01] ++ frameReset.drop 4))).rxq = frameReset.drop 4 := by decide
/-- V47-13. -/
theorem test_xcvRecv : ans .xcvRecv (s0rx [0xAB, 0xCD, 0x00, 0x00, 0x16, 0x6C, 0xDC, 0xBA]) = .bytes [] := by decide
/-- V43-24: the trailer has an order. -/
theorem test_xcvRecv_badTail : (after .xcvRecv (s0rx (frameReset.take 10 ++ [0xBA, 0xDC]))).err = ⟨1, 3⟩ := by decide
/-- V43-28: a timeout while the payload comes. -/
theorem test_timeout : (step { after .frameParse (s0rx (frameReset.take 7)) with inq := [.timeout] } =
    .next { after .frameParse (s0rx (frameReset.take 7)) with
      err := ⟨3, 2⟩, rxs := .idle, cnt := 0, busy := false, out := .error .inPay }) := by rfl

/-! ### Commands and replies -/

/-- V44-1. -/
theorem test_cmdIdent : ans .cmdIdent s0 = .bytes [0x14, 0x05, 0x04, 0x00, 0x6A, 0x39, 0x57, 0x64] := by decide
/-- V44-20. -/
theorem test_rspIdent : ans (.rspIdent [0x15, 0x05, 0x24, 0x00, 0x2A, 0x6B, 0x35, 0x5F, 0x32, 0x2E, 0x30, 0x31, 0x00, 0xFF]) s0 =
    .bytes [0x6B, 0x35, 0x5F, 0x32, 0x2E, 0x30, 0x31] := by decide
/-- V44-25. -/
theorem test_rspIdent_edge : ans (.rspIdent [0x15, 0x05, 0x24, 0x00, 0x2A, 0x20, 0x80, 0x7E]) s0 = .bytes [0x20] := by decide
/-- V44-3. -/
theorem test_cmdRead : ans (.cmdRead 0x1F80 128) s0 =
    .bytes [0x1B, 0x05, 0x08, 0x00, 0x80, 0x1F, 0x80, 0x00, 0x6A, 0x39, 0x57, 0x64] := by decide
/-- The payload of V47-7, read in full. -/
theorem test_rspRead : ans (.rspRead [0x1C, 0x05, 0x08, 0x00, 0x00, 0x00, 0x04, 0x00, 0x11, 0x22, 0x33, 0x44] 4) s0 =
    .bytes [0x11, 0x22, 0x33, 0x44] := by decide
/-- One byte short. -/
theorem test_rspRead_short : (after (.rspRead [0x1C, 0x05, 0x08, 0x00, 0x00, 0x00, 0x04, 0x00, 0x11] 2) s0).err = ⟨2, 1⟩ := by
  decide
/-- V44-6. -/
theorem test_cmdWrite : ans (.cmdWrite [0x01, 0x02, 0x03, 0x04] 0x0E70) s0 =
    .bytes [0x1D, 0x05, 0x0C, 0x00, 0x70, 0x0E, 0x04, 0x01, 0x6A, 0x39, 0x57, 0x64, 0x01, 0x02, 0x03, 0x04] := by decide
/-- V44-9. -/
theorem test_cmdWrite_tooLong : after (.cmdWrite (rep 0 244) 0) s0 = s0.failed 5 1 .tooLong := by decide
/-- V44-48 and V44-42. -/
theorem test_rspWrite : ans (.rspWrite [0x1E, 0x05, 0x02, 0x00, 0x70, 0x0E, 0xFF, 0xFF] 0x0E70) s0 = .bool true ∧
    ans (.rspWrite [0x1E, 0x05, 0x02, 0x00, 0x71, 0x0E] 0x0E70) s0 = .bool false := by decide
/-- V44-45: a reply too short. -/
theorem test_rspWrite_short : ans (.rspWrite [0x1E, 0x05, 0x02, 0x00, 0x70] 0x0E70) s0 = .bool false := by decide
/-- V44-10. -/
theorem test_cmdReset : ans .cmdReset s0 = .bytes [0xDD, 0x05, 0x00, 0x00] := by decide

/-! ### Channels -/

/-- V45-1. -/
theorem test_chDecode : ans (.chDecode 5) (s0img 0x40 record1) = .channel (.chan chan1) := by decide
/-- V45-2: the bits that no field owns are not read. -/
theorem test_chDecode_unassigned : ans (.chDecode 5) (s0img 0x40 [0xF0, 0x03, 0xDE, 0x00, 0x60, 0xEA, 0x00, 0x00, 0x08, 0x03,
    0xFD, 0xEE, 0xEA, 0xFB, 0xFB, 0xF0]) = .channel (.chan chan1) := by decide
/-- V45-3, `preserve`. -/
theorem test_chEncode : (after (.chEncode 1 (.chan mk)) s0).rdBytes 0 16 =
    [0x60, 0x92, 0xDF, 0x00, 0x00, 0x00, 0x00, 0x00, 0x00, 0x00, 0xCC, 0xEC, 0xE8, 0xF8, 0xFB, 0xF0] := by decide
/-- The channel of V45-23. -/
def chanLast : Chan where
  freq10 := 43950000
  offset10 := 500000
  duplex := .plus
  rxTone := .dcs 754 true
  txTone := .ctcss 670
  am := false
  narrow := true
  reverse := true
  bclo := true
  power := .low
  pttid := 3
  dtmfDecode := true
  step := 833
  scrambler := 10
/-- V45-23, on an image of zeros at the record. -/
theorem test_chEncode_last : (after (.chEncode 214 (.chan chanLast)) (s0img 0x0D50 (rep 0 16))).rdBytes 0x0D50 16 =
    [0xB0, 0x9F, 0x9E, 0x02, 0x20, 0xA1, 0x07, 0x00, 0x67, 0x00, 0x13, 0x01, 0x13, 0x07, 0x0E, 0x0A] := by decide
/-- V45-13. -/
theorem test_chErase : (after (.chErase 5) ((s0img 0x40 record1).wrBytes 0x0F90 [0x41, 0x42, 0x43])).img = [] := by decide
/-- V45-16. -/
theorem test_chErase_bad : after (.chErase 0) s0 = s0.failed 5 4 .badChannel := by decide
/-- V45-11. -/
theorem test_chIsEmpty : ans (.chIsEmpty 5) (s0img 0x44 (rep 0 12)) = .bool true := by decide
/-- V45-12. -/
theorem test_chIsEmpty_not : ans (.chIsEmpty 5) (s0img 0x40 [0xFF, 0xFF, 0xFF, 0x00]) = .bool false := by decide
/-- V45-33 and V45-34. -/
theorem test_toneDec_ctcss : ans (.toneDec 1 49) s0 = .tone (.ctcss 2541) ∧ ans (.toneDec 1 50) s0 = .tone .noTone := by decide
/-- V45-39 and V45-40. -/
theorem test_toneDec_dcs : ans (.toneDec 3 103) s0 = .tone (.dcs 754 true) ∧ ans (.toneDec 3 104) s0 = .tone .noTone := by decide
/-- V45-44 and V45-47. -/
theorem test_toneEnc : ans (.toneEnc (.ctcss 1000)) s0 = .toneCode 1 12 ∧ ans (.toneEnc (.dcs 31 true)) s0 = .toneCode 3 3 := by
  decide
/-- V45-45. -/
theorem test_toneEnc_bad : (after (.toneEnc (.ctcss 1001)) s0).err = ⟨4, 1⟩ := by decide
/-- V45-52 and V45-54. -/
theorem test_stepDec : ans (.stepDec 0x0B) s0 = .step 1250 ∧ ans (.stepDec 0x0E) s0 = .step 833 := by decide
/-- V45-54 with the list of six. -/
theorem test_stepDec_default : ans (.stepDec 0xFF) { s0 with cfg := { p0 with stepTop := 5, stepTable := #v[100, 250, 500, 625, 1000, 1250] } } = .step 250 := by decide
theorem test_stepEnc : ans (.stepEnc 833) s0 = .stepIndex 7 := by decide
theorem test_stepEnc_bad : (after (.stepEnc 900) s0).err = ⟨4, 2⟩ := by decide

/-! ### Names, FM table, settings -/

/-- V46-2 and V46-6. -/
theorem test_nameDecode : ans (.nameDecode 1) (s0img 0x0F50 (ascii "REPEATER1 ")) = .bytes (ascii "REPEATER1") ∧
    ans (.nameDecode 1) (s0img 0x0F50 [0x41, 0xFF, 0x42]) = .bytes [0x41] := by decide
/-- V46-11. -/
theorem test_nameEncode : (after (.nameEncode 1 (ascii "REPEATER1")) s0).rdBytes 0x0F50 16 =
    [0x52, 0x45, 0x50, 0x45, 0x41, 0x54, 0x45, 0x52, 0x31, 0x20, 0x20, 0x20, 0x20, 0x20, 0x20, 0x20] := by decide
/-- V46-20: the length is checked before the characters. -/
theorem test_nameEncode_bad : (after (.nameEncode 1 (rep 0 17)) s0).err = ⟨5, 8⟩ := by decide
/-- V46-30. -/
theorem test_fmDecode : ans (.fmDecode 0) (s0img 0x0E40 [0x6C, 0x03]) = .half 876 := by decide
/-- V46-33. -/
theorem test_fmDecode_bad : (after (.fmDecode 16) s0).err = ⟨5, 10⟩ := by decide
/-- V46-31. -/
theorem test_fmEncode : (after (.fmEncode 0 1080) s0).rdBytes 0x0E40 2 = [0x38, 0x04] := by decide
/-- V46-34. -/
theorem test_setGet : ans (.setGet (ascii "squelch")) (s0img 0x0E71 [0x03]) = .byte 3 := by decide
/-- V46-37. -/
theorem test_setGet_bad : (after (.setGet (ascii "volume")) s0).err = ⟨5, 11⟩ := by decide
/-- V46-35. -/
theorem test_setPut : (after (.setPut (ascii "mic_gain") 2) s0).img = [(0x0E77, 2)] := by decide
/-- V46-42: twelve at most. -/
theorem test_logoDecode : ans (.logoDecode 2) (s0img 0x0EC0 (ascii "ABCDEFGHIJKLMNOP")) = .bytes (ascii "ABCDEFGHIJKL") := by decide
/-- V46-39: bytes 12 to 15 are kept. -/
theorem test_logoEncode : (after (.logoEncode 1 (ascii "HELLO")) (s0img 0x0EB0 (rep 0xAA 16))).rdBytes 0x0EB0 16 =
    [0x48, 0x45, 0x4C, 0x4C, 0x4F, 0x20, 0x20, 0x20, 0x20, 0x20, 0x20, 0x20, 0xAA, 0xAA, 0xAA, 0xAA] := by decide
/-- V46-43. -/
theorem test_pwdGet : ans .pwdGet (after (.pwdPut [0xD2, 0x04, 0x00, 0x00]) s0) = .bytes [0xD2, 0x04, 0x00, 0x00] := by decide
/-- V46-44. -/
theorem test_pwdPut_bad : (after (.pwdPut [0x01, 0x02, 0x03]) s0).err = ⟨5, 8⟩ := by decide
/-- V46-45. -/
theorem test_unlockGet : ans (.unlockGet (ascii "tx350")) (s0img 0x0F41 [0x01]) = .byte 1 := by decide
/-- V46-46. -/
theorem test_unlockPut : (after (.unlockPut (ascii "tx350") 0) s0).img = [(0x0F41, 0)] := by decide

/-! ### Image port and host sequences -/

/-- V47-14. -/
theorem test_imgLoad_oob : after (.imgLoad 8190 [0x01, 0x02, 0x03]) s0 = s0.failed 5 2 .oob := by decide
/-- V47-15. -/
theorem test_imgLoad_end : after (.imgLoad 8192 []) s0 = s0.answered .done := by decide
/-- V47-14 and V47-15. -/
theorem test_imgStore : (after (.imgStore 8192 1) s0).err = ⟨5, 2⟩ ∧ ans (.imgStore 8192 0) s0 = .bytes [] := by decide
theorem test_imgStore_bytes : ans (.imgStore 8190 2) (s0img 8191 [0x07]) = .bytes [0xFF, 0x07] := by decide
/-- V43-3, sent (R231). -/
theorem test_xcvSend : (after (.xcvSend [0x14, 0x05, 0x04, 0x00, 0x6A, 0x39, 0x57, 0x64]) s0).txq = frameIdent := by decide
/-- V47-3: one malformed header, then the reply. -/
theorem test_drvIdentify : ans .drvIdentify (s0rx ([0xDE, 0xAD, 0xBE, 0xEF] ++ frameG)) = .bytes (ascii "k5_2.01.23") ∧
    (after .drvIdentify (s0rx ([0xDE, 0xAD, 0xBE, 0xEF] ++ frameG))).txq = frameIdent ++ frameIdent := by decide
/-- V47-4: one stray byte defeats all five attempts. -/
theorem test_drvIdentify_stray : (after .drvIdentify (s0rx (0x00 :: frameG))).err = ⟨2, 3⟩ ∧
    (after .drvIdentify (s0rx (0x00 :: frameG))).rxq = [0x80, 0x16, 0x6C, 0x23, 0x35, 0xDC, 0xBA] := by decide
/-- The frame of V47-7. -/
def replyRead : List Byte :=
  [0xAB, 0xCD, 0x0C, 0x00, 0x0A, 0x69, 0x1C, 0xE6, 0x2E, 0x91, 0x09, 0x40, 0x30, 0x17, 0xE6, 0x04, 0xE8, 0x3A, 0xDC, 0xBA]
/-- V47-7. -/
theorem test_drvRead : ans (.drvRead 0 4) (s0rx replyRead) = .bytes [0x11, 0x22, 0x33, 0x44] := by decide
/-- V47-8. -/
theorem test_drvRead_short : (after (.drvRead 0 5) (s0rx replyRead)).err = ⟨2, 1⟩ := by decide
/-- V47-10. -/
theorem test_drvWrite : ans (.drvWrite (rep 0 128) 0x1C80)
    (s0rx [0xAB, 0xCD, 0x06, 0x00, 0x08, 0x69, 0x16, 0xE6, 0xAE, 0x8D, 0x30, 0xDC, 0xDC, 0xBA]) = .bool true := by decide
/-- V47-12. -/
theorem test_drvReset : (after .drvReset s0).txq = frameReset := by decide
/-- P4, the start: the identify frame and the first read frame V43-4 go out, then the block waits. -/
theorem test_syncDownload : (after .syncDownload (s0rx frameG)).txq = frameIdent ++ [0xAB, 0xCD, 0x0C, 0x00, 0x0D, 0x69, 0x1C,
      0xE6, 0x2E, 0x91, 0x8D, 0x40, 0x4B, 0x0C, 0x82, 0x24, 0x56, 0xEC, 0xDC, 0xBA] ∧
    (after .syncDownload (s0rx frameG)).busy = true := by decide
/-- P6(a): the second acknowledgement names the wrong offset. -/
theorem test_syncUpload_nak : (after .syncUpload (s0rx (frameG ++
      [0xAB, 0xCD, 0x06, 0x00, 0x08, 0x69, 0x16, 0xE6, 0x2E, 0x91, 0x15, 0x14, 0xDC, 0xBA] ++
      [0xAB, 0xCD, 0x06, 0x00, 0x08, 0x69, 0x16, 0xE6, 0x2E, 0x91, 0x15, 0x14, 0xDC, 0xBA]))).err = ⟨2, 4⟩ := by decide

/-! ### Ill-formed parameters (R282) -/

/-- R162 with `F_DUPLEX` of width 3: the field holds 5, which is no assigned code, `DUP_PLUS` = 1 among them. -/
theorem test_duplex_wide : duplexOf { p0 with fDuplex := ⟨11, 0, 3⟩ } (rep 1 11 ++ rep 5 5) = .reserved 1 := by decide
/-- R164 with a code that does not fit its field: no record gives it, and encode stores what `putf` keeps of it. -/
theorem test_power_high : powerOf { p0 with pwrHigh := 6 } (rep 0xFF 16) = .reserved 3 ∧
    powerEnc { p0 with pwrHigh := 6 } .high = .ok 6 := by decide

/-! ### Programs (R83, R246) -/

/-- The refused encode of P3, with no handler: the program ends, a delivery still comes. -/
theorem test_program_ends : step { s0 with inq := [encode (.stepEnc 900), .line [1], encode (.chErase 1)] } =
    .next { s0 with err := ⟨4, 2⟩, out := .error .step, inq := [.line [1]] } := by rfl
/-- The same with `on EncodingError: continue`, as P3 has it. -/
theorem test_program_handles :
    step { s0 with inq := [encode (.stepEnc 900), .onError .encoding .goOn, encode (.chErase 1)] } =
    .next { s0 with err := ⟨4, 2⟩, out := .error .step, inq := [.onError .encoding .goOn, encode (.chErase 1)] } := by rfl

/-! ### Formats -/

/-- The header of `g` arrives while a reception waits. -/
theorem test_wFrameHeader : (after2 .frameParse (.wFrameHeader 0x12) s0).rxs = .pay ∧
    (after2 .frameParse (.wFrameHeader 0x12) s0).len = 0x12 := by decide
/-- V43-12: any two checksum bytes. -/
theorem test_wFrameTrailer : (after (.wFrameTrailer 0xFF 0xFF) (after2 .frameParse (.wFrameHeader 0x00) s0)).out = .bytes [] := by
  decide
/-- V45-1. -/
theorem test_mChanRecord : ans (.mChanRecord 14550000 60000 0x08 0x03 0x31 0x02 0x0A 0x03 0x0A 0x00) s0 = .channel (.chan chan1) := by
  decide
/-- V46-8. -/
theorem test_mNameRecord : ans (.mNameRecord ([0x20, 0x20, 0x41, 0x20] ++ rep 0xFF 12)) s0 = .bytes [0x20, 0x20, 0x41] := by decide
/-- V46-30. -/
theorem test_mFmEntry : ans (.mFmEntry 876) s0 = .half 876 := by decide
/-- V46-42. -/
theorem test_mSetFields : ans (.mSetFields (.logo2 (ascii "ABCDEFGHIJKLMNOP"))) s0 = .bytes (ascii "ABCDEFGHIJKL") := by decide
/-- The first instruction after reset is the one placed (a code, R81). -/
theorem test_fetch : (match step (State.reset.withFetchWord 8 0x36) with
    | .next t => t.out
    | _ => .idle) = ans (.stepDec 0) State.reset := by rfl

/-! ### Witnesses: every hypothesis of every obligation is met; each clause at a boundary -/

/-- `P0` with the all-zero key, under which a payload is its own obfuscation. -/
def z0 : State := { s0 with cfg := { p0 with keyTable := Vector.replicate 16 0 } }

/-- `z0` with bytes received. -/
def z0rx (q : List Byte) : State := { z0 with rxq := q }

/-- A reception that has reached a stage, with one more byte to come. -/
def waiting (st : RxStage) (cnt : BitVec 9) (len : BitVec 8) (hb tb : List Byte) (inp : Input) : State :=
  { s0 with busy := true, rxs := st, cnt := cnt, len := len, hb := hb, tb := tb, inq := [inp] }

/-- The acknowledgement of a write at block `k`, in clear. -/
def ack (k : Nat) : Reply := ([0x1E, 0x05, 0x02, 0x00, BitVec.ofNat 8 (128 * k), BitVec.ofNat 8 (128 * k / 256)], 0, 0)

/-- The acknowledgements of the first `n` blocks. -/
def acks (n : Nat) : List Reply := (List.range n).map ack

/-- The zero key leaves the bytes as they are. -/
theorem z0_xors (bs : List Byte) : XorsKey z0.cfg bs bs := by
  refine ⟨rfl, fun i _ => ?_⟩
  have h : ∀ j, j < 16 → byteAt z0.cfg.key j = 0 := by decide
  rw [h _ (Nat.mod_lt _ (by decide))]
  exact BitVec.xor_zero.symm

/-- What an acknowledgement of block `k` says. -/
theorem ack_acks : ∀ k, k < 58 → ((acks 58).getD k ([], 0, 0)).1 = (ack k).1 ∧ ((acks 58).getD k ([], 0, 0)).1.length ≤ 255 ∧
    ((ack k).1[0]? = some 0x1E ∧ (ack k).1[4]? = some (BitVec.ofNat 8 (128 * k)) ∧
      (ack k).1[5]? = some (BitVec.ofNat 8 (128 * k / 256))) := by decide

theorem wit_ObfXorsRepeatingKey : s0.busy = false := by decide
theorem wit_ObfTwiceIsIdentity : s0.busy = false := by decide
theorem wit_ObfOfConcatenation : s0.busy = false ∧ 0 < [(7 : Byte)].length := by decide
theorem wit_Crc16IsShiftRegister : s0.busy = false := by decide
theorem wit_Crc16ResidueByteOrder : s0.busy = false := by decide
theorem wit_FrameBuildLayout : s0.busy = false ∧ (rep 7 255).length ≤ 255 ∧ 255 < (rep 7 256).length := by decide
theorem wit_FrameParseTakesFrame : (s0rx (wireFrame (rep 7 255) 1 2 ++ [9])).busy = false ∧
    (s0rx (wireFrame (rep 7 255) 1 2 ++ [9])).Buffers ∧ (rep 7 255).length ≤ 255 ∧
    (s0rx (wireFrame (rep 7 255) 1 2 ++ [9])).rxq = wireFrame (rep 7 255) 1 2 ++ [9] := by decide
theorem wit_FrameParseTakesFrame_empty : (s0rx (wireFrame [] 1 2)).Buffers ∧
    (s0rx (wireFrame [] 1 2)).rxq = wireFrame [] 1 2 ++ [] := by decide
/-- Both causes, and a header that is wrong in both ways. -/
theorem wit_FrameParseRefusesHeader : (s0rx [0xAB, 0xCE, 4, 0, 9]).busy = false ∧ (s0rx [0xAB, 0xCE, 4, 0, 9]).Buffers ∧
    (s0rx [0xAB, 0xCE, 4, 0, 9]).rxq = [0xAB, 0xCE, 4, 0] ++ [9] ∧ headerFault 0xAB 0xCE 0 = some (1, .badHead) ∧
    headerFault 0xAB 0xCD 1 = some (2, .badRsvd) ∧ headerFault 0 0xCD 1 = some (1, .badHead) := by decide
theorem wit_FrameParseRefusesTail : (s0rx ([0xAB, 0xCD, 1, 0] ++ [7] ++ [1, 2, 0xBA, 0xDC] ++ [9])).busy = false ∧
    (s0rx ([0xAB, 0xCD, 1, 0] ++ [7] ++ [1, 2, 0xBA, 0xDC] ++ [9])).Buffers ∧ [(7 : Byte)].length ≤ 255 ∧
    (s0rx ([0xAB, 0xCD, 1, 0] ++ [7] ++ [1, 2, 0xBA, 0xDC] ++ [9])).rxq =
      [0xAB, 0xCD, BitVec.ofNat 8 [(7 : Byte)].length, 0x00] ++ [7] ++ [1, 2, 0xBA, 0xDC] ++ [9] ∧
    ((0xBA : Byte) ≠ 0xDC ∨ (0xDC : Byte) ≠ 0xBA) := by decide
theorem wit_ReceptionStages_start : s0.busy = false ∧ s0.rxq = [] := by decide
/-- One state per stage clause, in the order of the clauses. -/
theorem wit_ReceptionStages : ∀ s ∈ [waiting .hdr 2 0 [0xAB, 0xCD, 0, 0] (rep 0 4) (.line [4]),
      waiting .hdr 3 0 [0xAB, 0xCE, 4, 0] (rep 0 4) (.line [0]), waiting .hdr 3 0 [0xAB, 0xCD, 0, 0] (rep 0 4) (.line [0]),
      waiting .pay 253 255 (rep 0 4) (rep 0 4) (.line [0]), waiting .pay 254 255 (rep 0 4) (rep 0 4) (.line [0]),
      waiting .trl 2 4 (rep 0 4) [1, 2, 0, 0] (.line [0]), waiting .trl 3 4 (rep 0 4) [1, 2, 0xDC, 0] (.line [0]),
      waiting .trl 3 4 (rep 0 4) [1, 2, 0xDC, 0] (.line [0xBA])],
    (s.inq = [.line [0]] ∨ s.inq = [.line [4]] ∨ s.inq = [.line [0xBA]]) ∧ s.rxq = [] ∧ s.seq = .ret ∧ s.Buffers := by decide
theorem wit_ReceptionStages_header : headerFault 0xAB 0xCE 0 = some (1, .badHead) ∧ headerFault 0xAB 0xCD 0 = none := by decide
theorem wit_TimeoutEndsReceptionByStage : { s0 with inq := [.timeout] }.rxs = .idle ∧
    ∀ st ∈ [RxStage.hdr, .pay, .trl], (waiting st 0 4 (rep 0 4) (rep 0 4) .timeout).seq = .ret ∧
      (waiting st 0 4 (rep 0 4) (rep 0 4) .timeout).inq = [.timeout] ∧
      (waiting st 0 4 (rep 0 4) (rep 0 4) .timeout).rxs = st := by decide
/-- The frame of V43-2 cut in two, and then the timeout. -/
theorem wit_SequencerAgreesWithFunction : s0.busy = false ∧ s0.Buffers ∧
    { s0 with inq := [.issue 0x11 {}, .line (frameReset.take 5), .line (frameReset.drop 5), .timeout] }.inq =
      encode .frameParse :: ([frameReset.take 5, frameReset.drop 5].map Input.line ++ .timeout :: []) := by decide
theorem wit_FrameRoundTrip : s0.busy = false ∧ s0.Buffers ∧ (rep 7 255).length ≤ 255 := by decide
theorem wit_BusyIssueRefused : issuedInstr (.obf []) = true ∧ issuedInstr .syncUpload = true ∧
    (waiting .hdr 0 0 (rep 0 4) (rep 0 4) (.issue 0x03 {})).busy = true ∧
    (waiting .hdr 0 0 (rep 0 4) (rep 0 4) (.issue 0x03 {})).inq = [.issue 0x03 {}] := by decide
theorem wit_OperationMap : (0x03 : Byte).toNat ∉ opselCodes ∧ { s0 with inq := [.issue 0x03 {}] }.busy = false := by decide
theorem wit_CommandPayloads : s0.busy = false := by decide
/-- The longest write that fits, and one byte more. -/
theorem wit_WriteCommandPayload : s0.busy = false ∧
    s0.cfg.wpLen + 8 + (rep 7 243).length ≤ 255 ∧ 255 < s0.cfg.wpLen + 8 + (rep 7 244).length := by decide
theorem wit_IdentReplyString : s0.busy = false := by decide
theorem wit_ReadReplyData : s0.busy = false ∧ (4 : Byte).toNat ≤ (rep 7 12).length - 8 ∧ (rep 7 11).length - 8 < (4 : Byte).toNat ∧
    (0 : Byte).toNat ≤ ([] : List Byte).length - 8 := by decide
theorem wit_WriteReplyAcknowledges : s0.busy = false := by decide
theorem wit_EmptyBySentinel : s0.busy = false ∧ TablesInImage s0.cfg ∧ 1 ≤ 214 ∧ (0 < 1 ∨ 214 < 0) ∧ 214 < 215 := by decide
theorem wit_BadChannelNumberRefused : s0.busy = false ∧ (215 < 1 ∨ 214 < 215) ∧ (201 < 1 ∨ 200 < 201) := by decide
theorem wit_ChannelDecodeFields : (s0img 0x40 record1).busy = false ∧ TablesInImage p0 ∧ WfFields p0 ∧ 1 ≤ 5 ∧ 5 ≤ 214 ∧
    record1 = (s0img 0x40 record1).rdBytes ((s0img 0x40 record1).cfg.chBase + 16 * (5 - 1)) 16 ∧ le32Nat record1 0 ≠ 0 ∧
    le32Nat record1 0 ≠ 0xFFFFFFFF := by decide
/-- Channel 1 and channel 214 are empty there. -/
theorem wit_ChannelDecodeFields_empty : le32Nat (s0.rdBytes (s0.cfg.chBase + 16 * (1 - 1)) 16) 0 = 0xFFFFFFFF ∧
    le32Nat (s0.rdBytes (s0.cfg.chBase + 16 * (214 - 1)) 16) 0 = 0xFFFFFFFF := by decide
theorem wit_ToneDecodeTable : s0.busy = false := by decide
theorem wit_ToneEncodeLookup : s0.busy = false ∧ WfTables s0.cfg ∧ toneKnown s0.cfg (.dcs 754 true) = true ∧
    toneKnown s0.cfg .noTone = true ∧ toneKnown s0.cfg (.ctcss 2541) = true ∧ toneKnown s0.cfg (.ctcss 1001) = false := by decide
theorem wit_StepDecodeEncode : s0.busy = false ∧ 833 ∈ s0.cfg.step ∧ 900 ∉ s0.cfg.step := by decide
theorem wit_EraseWritesBothRecords : s0.busy = false ∧ TablesInImage s0.cfg ∧ s0.ImageWf ∧ 1 ≤ 214 ∧ 200 ≤ 200 := by decide
/-- One channel per check, in the order of R174. -/
theorem wit_EncodeRaisesFirstFailure : s0.busy = false ∧
    firstFailure s0.cfg { mk with freq10 := 0 } = some (5, 5, .badFreq) ∧
    firstFailure s0.cfg { mk with duplex := .plus } = some (5, 6, .badDuplex) ∧
    firstFailure s0.cfg { mk with rxTone := .ctcss 1001 } = some (4, 1, .tone) ∧
    firstFailure s0.cfg { mk with txTone := .dcs 24 false } = some (4, 1, .tone) ∧
    firstFailure s0.cfg { mk with power := .reserved 2 } = some (5, 7, .badEnum) ∧
    firstFailure s0.cfg { mk with step := 900 } = some (4, 2, .step) ∧
    firstFailure s0.cfg { mk with scrambler := 11 } = some (4, 3, .enumValue) := by decide
theorem wit_EncodeStoresEveryField : s0.busy = false ∧ TablesInImage s0.cfg ∧ WfFields s0.cfg ∧ WfTables s0.cfg ∧ s0.ImageWf ∧
    1 ≤ 214 ∧ firstFailure s0.cfg chanLast = none ∧ firstFailure s0.cfg mk = none := by decide
/-- The record of V45-2. -/
def record2 : List Byte := record1.take 10 ++ [0xFD, 0xEE, 0xEA, 0xFB, 0xFB, 0xF0]
/-- V45-1 and V45-2 agree on the bits that some field covers. -/
theorem records_agree : ∀ i, i < 16 → 10 ≤ i → ∀ j, j < 8 → ((allDescs p0).any fun f => covers f i j) = true →
    ((s0img 0x40 record1).rd (0x40 + i)).getLsbD j = ((s0img 0x40 record2).rd (0x40 + i)).getLsbD j := by decide
theorem wit_UncoveredBitsNotRead : TablesInImage p0 ∧ WfFields p0 ∧ 1 ≤ 5 ∧ 5 ≤ 214 ∧
    (∀ i, i < 10 → (s0img 0x40 record1).rd (0x40 + i) = (s0img 0x40 record2).rd (0x40 + i)) ∧
    (∀ i j, 10 ≤ i → i < 16 → j < 8 → (∃ f ∈ allDescs p0, covers f i j = true) →
      ((s0img 0x40 record1).rd (0x40 + i)).getLsbD j = ((s0img 0x40 record2).rd (0x40 + i)).getLsbD j) :=
  ⟨by decide, by decide, by decide, by decide, by decide,
    fun i j h10 h16 hj h => records_agree i h16 h10 j hj (List.any_eq_true.mpr h)⟩
theorem wit_ChannelValueRoundTrip : s0.busy = false ∧ TablesInImage s0.cfg ∧ WfFields s0.cfg ∧ WfTables s0.cfg ∧ s0.ImageWf ∧
    (after (.chEncode 214 (.chan chanLast)) s0).err = ⟨0, 0⟩ := by decide
/-- A channel in use, and an erased one that has a name. -/
theorem wit_ChannelImageRoundTrip : (s0img 0x40 record1).busy = false ∧ TablesInImage p0 ∧ WfFields p0 ∧ WfTables p0 ∧
    (s0img 0x40 record1).ImageWf ∧ canonicalRecord p0 ((s0img 0x40 record1).rdBytes 0x40 16) = true ∧
    (s0img 0x40 record1).rdBytes 0x40 16 ≠ List.replicate 16 0xFF ∧
    canonicalRecord p0 ((s0img 0x0F50 [0x41]).rdBytes 0 16) = true := by decide
theorem wit_NameAndLogoDecode : s0.busy = false ∧ TablesInImage s0.cfg ∧ s0.cfg.settingsMap.logo1 + 16 ≤ 8192 ∧
    s0.cfg.settingsMap.logo2 + 16 ≤ 8192 ∧ 1 ≤ 200 ∧ 200 < 201 := by decide
theorem wit_NameEncodeStores : s0.busy = false ∧ TablesInImage s0.cfg ∧ s0.ImageWf ∧ 1 ≤ 200 ∧
    (rep 0x41 16).length ≤ s0.cfg.namePadWidth ∧ (∀ b ∈ rep 0x41 16, 0x20 ≤ b.toNat ∧ b.toNat ≤ 0x7E) ∧
    s0.cfg.namePadWidth < (rep 0x41 17).length ∧ ¬ (∀ b ∈ [(0x7F : Byte)], 0x20 ≤ b.toNat ∧ b.toNat ≤ 0x7E) := by decide
theorem wit_LogoEncodeStores : s0.busy = false ∧ s0.ImageWf ∧ s0.cfg.settingsMap.logo1 + 16 ≤ 8192 ∧
    s0.cfg.settingsMap.logo2 + 16 ≤ 8192 ∧ (rep 0x41 12).length ≤ 12 ∧ 12 < (rep 0x41 13).length ∧
    (∀ b ∈ rep 0x41 12, 0x20 ≤ b.toNat ∧ b.toNat ≤ 0x7E) := by decide
/-- "A" with a space behind it: the encodes succeed. -/
theorem wit_TextRoundTrip : s0.busy = false ∧ TablesInImage s0.cfg ∧ s0.ImageWf ∧
    s0.cfg.settingsMap.logo1 + 16 ≤ 8192 ∧ s0.cfg.settingsMap.logo2 + 16 ≤ 8192 ∧
    ([0x41] = ([] : List Byte) ∨ byteAt [0x41] (1 - 1) ≠ 0x20) ∧
    (after (.nameEncode 200 ([0x41] ++ List.replicate 1 0x20)) s0).err = ⟨0, 0⟩ ∧
    (after (.logoEncode 2 ([0x41] ++ List.replicate 1 0x20)) s0).err = ⟨0, 0⟩ := by decide
theorem wit_FmEntryReadWrite : s0.busy = false ∧ s0.cfg.fmBase + 32 ≤ 8192 ∧ s0.ImageWf ∧ 15 ≤ 15 ∧ 15 < 16 := by decide
theorem wit_SettingReadWrite : s0.busy = false ∧ s0.ImageWf ∧ (ascii "squelch", 0x0E71) ∈ settingTable s0.cfg.settingsMap ∧
    (ascii "flock", 0x0F40) ∈ settingTable s0.cfg.settingsMap ∧ 0x0F40 < 8192 ∧
    (∀ p ∈ settingTable s0.cfg.settingsMap, p.1 ≠ ascii "volume") := by decide
theorem wit_UnlockReadWrite : s0.busy = false ∧ s0.ImageWf ∧ (s0.cfg.unlockFlags.map Prod.fst).Nodup ∧
    (ascii "tx350", 0x0F41) ∈ s0.cfg.unlockFlags ∧ 0x0F41 < 8192 ∧ (∀ p ∈ s0.cfg.unlockFlags, p.1 ≠ ascii "tx") := by decide
theorem wit_PasswordReadWrite : s0.busy = false ∧ s0.cfg.settingsMap.password + s0.cfg.pwdLen ≤ 8192 ∧ s0.ImageWf ∧
    [(1 : Byte), 2, 3, 4].length = s0.cfg.pwdLen ∧ [(1 : Byte), 2, 3].length ≠ s0.cfg.pwdLen := by decide
theorem wit_ImageLoadStore : s0.busy = false ∧ s0.ImageWf ∧ 8190 + [(1 : Byte), 2].length ≤ 8192 ∧
    8192 < 8190 + [(1 : Byte), 2, 3].length ∧ 8192 + 0 ≤ 8192 ∧ 8192 < 8192 + 1 := by decide
theorem wit_SendAppendsOneFrame : s0.busy = false ∧ (rep 7 255).length ≤ 255 ∧ 255 < (rep 7 256).length := by decide
/-- A malformed header, and a frame of one payload byte with its tail the wrong way round. -/
def badHeader : List Byte := [0xDE, 0xAD, 0xBE, 0xEF]
def badTail : List Byte := [0xAB, 0xCD, BitVec.ofNat 8 [(7 : Byte)].length, 0x00] ++ [7] ++ [1, 2, 0xBA, 0xDC]
theorem badHeader_bad : BadReply badHeader 1 .badHead := .inl ⟨_, _, _, _, rfl, by decide⟩
theorem badTail_bad : BadReply badTail 3 .badTail := .inr ⟨rfl, rfl, [7], 1, 2, 0xBA, 0xDC, by decide, by decide, rfl⟩
/-- Malformed replies of both kinds. -/
def bads : Nat → List (List Byte)
  | 0 => []
  | n + 1 => badTail :: badHeader :: bads n
theorem bads_bad (n : Nat) : ∀ b ∈ bads n, ∃ i c, BadReply b i c := by
  induction n with
  | zero => simp [bads]
  | succ n ih =>
    simp only [bads, List.forall_mem_cons]
    exact ⟨⟨_, _, badTail_bad⟩, ⟨_, _, badHeader_bad⟩, ih⟩
/-- Attempts that fail in each way: no reply, a bad tail, a header cut short, a payload cut short. -/
def tries4 : List (List Input) :=
  [[.timeout], [.line badTail], [.line [0xDE], .timeout], [.line ([0xAB, 0xCD, 4, 0x00] ++ [9, 9]), .timeout]]
theorem tries4_failed : ∀ a ∈ tries4, FailedAttempt a := by
  simp only [tries4, List.forall_mem_cons]
  exact ⟨trivial, ⟨_, _, badTail_bad⟩, .inl (by decide), .inr ⟨_, _, rfl, by decide⟩, by simp⟩
/-- Four malformed replies in `RXQ` and then a good one; four attempts of every kind that fail and then a good reply. -/
theorem wit_IdentifySucceeds : s0.busy = false ∧ s0.Buffers ∧ [(7 : Byte)].length ≤ 255 ∧ (bads 2).length ≤ 4 ∧
    (∀ b ∈ bads 2, ∃ i c, BadReply b i c) ∧
    (s0rx ((bads 2).flatten ++ replyFrame ([7], 1, 2) ++ [9])).rxq = (bads 2).flatten ++ replyFrame ([7], 1, 2) ++ [9] ∧
    tries4.length ≤ 4 ∧ (∀ a ∈ tries4, FailedAttempt a) ∧ s0.rxq = [] ∧
    { s0 with inq := encode .drvIdentify :: (tries4.flatten ++ [Input.line (replyFrame ([7], 1, 2) ++ [9])]) }.inq =
      encode .drvIdentify :: (tries4.flatten ++ Input.line (replyFrame ([7], 1, 2) ++ [9]) :: []) :=
  ⟨rfl, by decide, by decide, by decide, bads_bad 2, rfl, by decide, tries4_failed, rfl, rfl⟩
theorem wit_IdentifyFailsAfterFive : Instr.syncUpload ∈ [Instr.drvIdentify, .syncDownload, .syncUpload] ∧ s0.busy = false ∧
    s0.Buffers ∧ (badHeader :: bads 2).length = 5 ∧ (∀ b ∈ badHeader :: bads 2, ∃ k c, BadReply b k c) ∧
    (s0rx ((badHeader :: bads 2).flatten ++ [9])).rxq = (badHeader :: bads 2).flatten ++ [9] ∧
    ([Input.line badHeader] :: tries4).length = 5 ∧ (∀ a ∈ [Input.line badHeader] :: tries4, FailedAttempt a) ∧ s0.rxq = [] :=
  ⟨by decide, rfl, by decide, by decide, List.forall_mem_cons.mpr ⟨⟨_, _, badHeader_bad⟩, bads_bad 2⟩, rfl, by decide,
    List.forall_mem_cons.mpr ⟨⟨_, _, badHeader_bad⟩, tries4_failed⟩, rfl⟩
/-- A reply of exactly the length asked for, and one a byte short. -/
theorem wit_DriverReadReply : (s0rx (replyFrame (rep 7 12, 1, 2) ++ [9])).busy = false ∧
    (s0rx (replyFrame (rep 7 12, 1, 2) ++ [9])).Buffers ∧ s0.cfg.readPrefix.length + s0.cfg.readPad.length + 7 ≤ 255 ∧
    (rep 7 12).length ≤ 255 ∧ (s0rx (replyFrame (rep 7 12, 1, 2) ++ [9])).rxq = replyFrame (rep 7 12, 1, 2) ++ [9] ∧
    (4 : Byte).toNat ≤ (rep 7 12).length - 8 ∧ (rep 7 12).length - 8 < (5 : Byte).toNat := by decide
/-- The malformed replies of `DRV.READ` and of `DRV.WRITE`. -/
theorem wit_DriverReadReply_bad : (s0rx (badTail ++ [9])).Buffers ∧ BadReply badTail 3 .badTail ∧
    (s0rx (badTail ++ [9])).rxq = badTail ++ [9] ∧ BadReply badHeader 1 .badHead :=
  ⟨by decide, badTail_bad, rfl, badHeader_bad⟩
theorem wit_DriverWriteReply : (s0rx (replyFrame (rep 7 6, 1, 2) ++ [9])).busy = false ∧
    (s0rx (replyFrame (rep 7 6, 1, 2) ++ [9])).Buffers ∧ WfWire s0.cfg ∧ 255 < s0.cfg.wpLen + 8 + (rep 7 244).length ∧
    s0.cfg.wpLen + 8 + (rep 7 243).length ≤ 255 ∧ (rep 7 6).length ≤ 255 ∧
    (s0rx (replyFrame (rep 7 6, 1, 2) ++ [9])).rxq = replyFrame (rep 7 6, 1, 2) ++ [9] := by decide
theorem wit_DriverWriteReply_bad : (s0rx (badTail ++ [9])).Buffers ∧ WfWire s0.cfg ∧ BadReply badTail 3 .badTail ∧
    (s0rx (badTail ++ [9])).rxq = badTail ++ [9] := ⟨by decide, by decide, badTail_bad, rfl⟩
/-- Each stage, and each of the four sequences. -/
theorem wit_DriverTimeoutRelabelled : ∀ st ∈ [RxStage.hdr, .pay, .trl],
    ∀ q ∈ [HostSeq.read 4, .write 0, .download 63 [] [], .upload 57],
      { waiting st 0 4 (rep 0 4) (rep 0 4) .timeout with seq := q }.inq = [.timeout] ∧
      { waiting st 0 4 (rep 0 4) (rep 0 4) .timeout with seq := q }.rxs ≠ .idle ∧
      { waiting st 0 4 (rep 0 4) (rep 0 4) .timeout with seq := q }.seq = q := by decide
/-- Replies of exactly the bytes a download asks for. -/
def reps64 : List Reply := List.replicate 64 (rep 7 136, 1, 2)
/-- An identify reply, those replies, and one byte more. -/
def dl : State := s0rx (replyFrame ([], 0, 0) ++ (reps64.map replyFrame).flatten ++ [9])
theorem wit_DownloadReplacesImage : dl.busy = false ∧ dl.Buffers ∧ dl.ImageWf ∧ WfWire dl.cfg ∧ reps64.length = 64 ∧
    (∀ r ∈ reps64, 136 ≤ r.1.length ∧ r.1.length ≤ 255) ∧
    dl.rxq = replyFrame ([], 0, 0) ++ (reps64.map replyFrame).flatten ++ [9] := by
  refine ⟨rfl, ⟨rfl, rfl, rfl⟩, rfl, by decide, List.length_replicate, fun r h => ?_, rfl⟩
  rw [List.eq_of_mem_replicate h]
  decide
theorem wit_UploadSendsPrefix :
    (z0rx (replyFrame ([], 0, 0) ++ ((acks 58).map replyFrame).flatten ++ [])).busy = false ∧
    (z0rx (replyFrame ([], 0, 0) ++ ((acks 58).map replyFrame).flatten ++ [])).Buffers ∧ WfWire z0.cfg ∧
    z0.cfg.wpLen + 136 ≤ 255 ∧ (acks 58).length = 58 ∧ (∀ r ∈ acks 58, r.1.length ≤ 255) ∧
    (∀ k, k < 58 → ∃ d, XorsKey z0.cfg ((acks 58).getD k ([], 0, 0)).1 d ∧ Acknowledges z0.cfg d (128 * k)) ∧
    (z0rx (replyFrame ([], 0, 0) ++ ((acks 58).map replyFrame).flatten ++ [])).rxq =
      replyFrame ([], 0, 0) ++ ((acks 58).map replyFrame).flatten ++ [] :=
  ⟨rfl, by decide, by decide, by decide, by decide, by decide,
    fun k hk => ⟨_, z0_xors _, (ack_acks k hk).1 ▸ (ack_acks k hk).2.2⟩, rfl⟩
/-- The 64th reply of a download is short or malformed; the 58th of an upload does not acknowledge or is malformed. -/
theorem wit_SyncStopsAtFirstFailure : z0.busy = false ∧ z0.Buffers ∧ WfWire z0.cfg ∧
    (List.replicate 63 ((rep 7 136, 1, 2) : Reply)).length < 64 ∧ 136 ≤ (rep 7 136).length ∧ (rep 7 136).length ≤ 255 ∧
    (rep 7 135).length < 136 ∧ z0.cfg.wpLen + 136 ≤ 255 ∧ (acks 57).length < 58 ∧ (∀ r ∈ acks 57, r.1.length ≤ 255) ∧
    (∀ k, k < 57 → (acks 57).getD k ([], 0, 0) = (acks 58).getD k ([], 0, 0)) ∧
    (∃ d, XorsKey z0.cfg (rep 7 135) d ∧ ¬ Acknowledges z0.cfg d (128 * (acks 57).length)) ∧ BadReply badTail 3 .badTail :=
  ⟨by decide, by decide, by decide, by decide, by decide, by decide, by decide, by decide, by decide, by decide, by decide,
    ⟨_, z0_xors _, by unfold Acknowledges; decide⟩, badTail_bad⟩
theorem wit_FramePartsArrive : s0.rxs = .idle ∧ (waiting .hdr 0 0 (rep 0 4) (rep 0 4) .timeout).rxs = .hdr ∧
    (waiting .hdr 0 0 (rep 0 4) (rep 0 4) .timeout).cnt = 0 ∧ (waiting .hdr 0 0 (rep 0 4) (rep 0 4) .timeout).rxq = [] ∧
    (waiting .hdr 0 0 (rep 0 4) (rep 0 4) .timeout).Buffers ∧ (waiting .trl 0 4 (rep 0 4) (rep 0 4) .timeout).rxs = .trl ∧
    (waiting .trl 0 4 (rep 0 4) (rep 0 4) .timeout).seq = .ret := by decide
/-- V45-1 stands in the image, and its bytes are those of the row. -/
theorem wit_RecordRowsAnswer : (s0img 0x40 record1).busy = false ∧ TablesInImage p0 ∧ (s0img 0x40 record1).rdBytes 0x40 16 =
      [BitVec.ofNat 8 (14550000 : Word).toNat, BitVec.ofNat 8 ((14550000 : Word).toNat / 256),
       BitVec.ofNat 8 ((14550000 : Word).toNat / 65536), BitVec.ofNat 8 ((14550000 : Word).toNat / 16777216),
       BitVec.ofNat 8 (60000 : Word).toNat, BitVec.ofNat 8 ((60000 : Word).toNat / 256),
       BitVec.ofNat 8 ((60000 : Word).toNat / 65536), BitVec.ofNat 8 ((60000 : Word).toNat / 16777216), 0x08, 0x03, 0x31,
       0x02, 0x0A, 0x03, 0x0A, 0x00] ∧ (rep 0x20 16).length = 16 := by decide
theorem wit_StepRunsDecoded : { s0 with inq := [encode .cmdReset] }.inq = encode .cmdReset :: [] ∧
    decode (encode .cmdReset) = .ok .cmdReset ∧ Instr.wellFormed .cmdReset = true ∧ s0.inq = [] ∧
    { s0 with inq := [.line [0xAB]] }.rxs = .idle ∧ { s0 with inq := [.onError .timeout .stop] }.inq = [.onError .timeout .stop] := by
  exact ⟨rfl, rfl, rfl, rfl, rfl, rfl⟩
/-- An operation that raises, with its handler behind a delivery and another handler; a refused one. -/
theorem wit_StepRunsDecoded_raise : RaisedBy (encode (.chErase 0)) s0 (after (.chErase 0) s0) .badChannel ∧
    HandledBy .badChannel [.line [1], .onError .encoding .stop, .onError .operand .goOn, encode .cmdReset] ∧
    RaisedBy (encode .cmdReset) { s0 with busy := true } (after .cmdReset { s0 with busy := true }) .busy :=
  ⟨⟨rfl, .inl ⟨.inl ⟨_, _, rfl⟩, .inr rfl⟩⟩,
    ⟨[.line [1], .onError .encoding .stop], .operand, [encode .cmdReset], rfl, rfl, fun x hx => by
      simp only [List.mem_cons, List.not_mem_nil, or_false] at hx
      rcases hx with rfl | rfl
      · exact ⟨by simp, by simp, by simp⟩
      · refine ⟨by simp, by simp, fun k a h => ?_⟩
        cases h
        decide⟩,
    ⟨rfl, .inl ⟨.inl ⟨_, _, rfl⟩, .inl rfl⟩⟩⟩
theorem wit_DecodeOfEncode : (Instr.mNameRecord (rep 0x20 16)).wellFormed = true := by decide
/-- A step that writes the image. -/
theorem wit_StepKeepsImageForm : { s0 with inq := [encode (.imgLoad 8191 [0x41])] }.ImageWf ∧
    step { s0 with inq := [encode (.imgLoad 8191 [0x41])] } = .next { s0 with img := [(8191, 0x41)], out := .done } := by
  exact ⟨rfl, rfl⟩
/-- A step from a reception that waits inside a host sequence. -/
theorem wit_StepKeepsSequencer :
    { waiting .hdr 3 0 [0xAB, 0xCD, 4, 0] (rep 0 4) (.line [0x00]) with seq := .identify 5 .answer }.SequencerWf ∧
    { waiting .hdr 3 0 [0xAB, 0xCD, 4, 0] (rep 0 4) (.line [0x00]) with seq := .identify 5 .answer }.RegistersWf ∧
    HostSeq.Legal (.identify 5 .answer) ∧
    ∃ t, step { waiting .hdr 3 0 [0xAB, 0xCD, 4, 0] (rep 0 4) (.line [0x00]) with seq := .identify 5 .answer } = .next t :=
  ⟨⟨rfl, by decide, rfl⟩, by decide, ⟨by decide, by decide⟩, _, rfl⟩
theorem wit_StepKeepsStatus : s0.StatusWf ∧ (after (.chErase 0) s0).StatusWf := by decide
theorem wit_ImageChangesOnlyOnSuccess : step { s0 with inq := [encode (.imgLoad 8191 [0x41])] } =
      .next { s0 with img := [(8191, 0x41)], out := .done } ∧
    ({ s0 with img := [(8191, 0x41)], out := .done } : State).img ≠ s0.img := by
  exact ⟨rfl, by decide⟩

end Sys2Proof.Tests
end

section
/-! The invariants of the sequencer and of `ERR` (10_state.md R16 to R21): each is kept by one byte of a reception, by what
the host does when a frame ends (`react_cases`), by everything an instruction or event can do (`Ran`), and so by a step. -/

namespace Sys2Proof.Machine

/-! ### Induction over a step -/

/-- A property that everything an instruction or event can do keeps, and that does not speak of the inputs to come, is kept
by a step: the program of the host changes nothing but those inputs. -/
theorem step_induct {P : State → Prop} (hinq : ∀ s l, P s → P { s with inq := l })
    (hran : ∀ s u, P s → Ran s u → P u) {s t : State} (hs : P s) (h : step s = .next t) : P t := by
  rcases step_cases h with ⟨-, rfl⟩ | ⟨inp, more, u, -, hu, -, rfl⟩
  · exact hs
  · have hpu : P u := hran _ u (hinq s more hs) hu
    split
    · exact hinq u _ hpu
    · exact hpu

/-! ### One byte of a reception -/

/-- What a byte that does not end the reception can do (43_framing.md R117 to R119): it is stored and counted, or it is the
last byte of its stage. -/
inductive Took (s : State) (b : Byte) : State → Prop where
  | header (h : s.rxs = .hdr) (hc : s.cnt.toNat < 3) :
      Took s b { s with hb := s.hb.set s.cnt.toNat b, cnt := s.cnt + 1 }
  | headerEnd (h : s.rxs = .hdr) (l : BitVec 8) :
      Took s b { s with hb := s.hb.set s.cnt.toNat b, len := l, cnt := 0, rxs := if l = 0 then .trl else .pay }
  | payload (h : s.rxs = .pay) (hc : s.cnt.toNat + 1 < s.len.toNat) :
      Took s b { s with rxb := s.rxb.set s.cnt.toNat b, cnt := s.cnt + 1 }
  | payloadEnd (h : s.rxs = .pay) : Took s b { s with rxb := s.rxb.set s.cnt.toNat b, cnt := 0, rxs := .trl }
  | trailer (h : s.rxs = .trl) (hc : s.cnt.toNat < 3) :
      Took s b { s with tb := s.tb.set s.cnt.toNat b, cnt := s.cnt + 1 }

/-- The one inversion of a byte after which the reception goes on. -/
theorem rxByte_none {s t : State} {b : Byte} (hi : s.rxs ≠ .idle) (h : s.rxByte b = (t, none)) : Took s b t := by
  unfold State.rxByte at h
  split at h
  case h_1 hs => exact absurd hs hi
  case h_2 hs =>
    simp only [State.rxHeader] at h
    split at h
    · next hc => cases h; exact .header hs hc
    · split at h
      · cases h
      · next l _ => cases h; exact .headerEnd hs l
  case h_3 hs =>
    simp only [State.rxPayload] at h
    split at h
    · next hc => cases h; exact .payload hs hc
    · cases h; exact .payloadEnd hs
  case h_4 hs =>
    simp only [State.rxTrailer] at h
    split at h
    · next hc => cases h; exact .trailer hs hc
    · split at h <;> cases h

theorem took_err {s t : State} {b : Byte} (h : Took s b t) : t.err = s.err := by cases h <;> rfl

/-- A byte is stored at its place in a buffer, so the buffers keep their sizes (10_state.md R17). -/
theorem rxByte_buffers {s : State} (b : Byte) (h : s.Buffers) : (s.rxByte b).1.Buffers := by
  simp only [State.rxByte, State.rxHeader, State.rxPayload, State.rxTrailer]
  split
  · exact h
  · split
    · simpa [State.Buffers] using h
    · split <;> simpa [State.Buffers] using h
  · split <;> simpa [State.Buffers] using h
  · split
    · simpa [State.Buffers] using h
    · split <;> simpa [State.Buffers] using h

theorem rxByte_registersWf {s : State} (b : Byte) (h : s.RegistersWf) : (s.rxByte b).1.RegistersWf := by
  refine ⟨rxByte_buffers b h.1, ?_⟩
  rw [rxByte_frame]
  exact h.2

theorem rxByte_seq (s : State) (b : Byte) : (s.rxByte b).1.seq = s.seq := by rw [rxByte_frame]

/-- A timeout never carries BUSY (R120). -/
theorem timeoutCause_ne_busy {r : RxStage} {c : Cause} (h : timeoutCause r = some c) : c ≠ .busy := by
  cases r <;> cases h <;> decide

/-! ### The status register (R20, R251) -/

/-- Every cause but BUSY, which is answered and never stored (70_reset_and_hazards.md R288), has its row in the table. -/
theorem errReg_legal {c : Cause} (h : c ≠ .busy) : c.errReg.legal = true := by
  cases c
  case busy => exact absurd rfl h
  all_goals decide

/-- However the host goes on when a frame has ended, it has written `ERR`. -/
theorem reacted_statusWf {L : Prop} {s t : State} (h : Reacted L s t) : t.StatusWf := by
  cases h with
  | raises c hc => exact errReg_legal hc
  | answers | waits | loads | resets => rfl

theorem feed_statusWf (q : List Byte) {s : State} (h : s.StatusWf) : (feed q s).StatusWf := by
  refine feed_induct (P := State.StatusWf) (fun _ _ h => h) ?_ ?_ q s h
  · intro s b t hs hi hb
    rw [State.StatusWf, took_err (rxByte_none hi hb)]
    exact hs
  · intro s b t e _ _ hb
    exact reacted_statusWf (react_cases t t.seq e (rxByte_some hb).1)

theorem timeoutEvent_statusWf {s : State} (h : s.StatusWf) : s.timeoutEvent.StatusWf := by
  unfold State.timeoutEvent
  split
  · exact h
  · next c hc =>
    exact feed_statusWf _ (reacted_statusWf (react_cases _ _ _ fun he => timeoutCause_ne_busy hc (Except.error.inj he)))

theorem ran_statusWf {s t : State} (hs : s.StatusWf) (h : Ran s t) : t.StatusWf := by
  cases h with
  | refused | shows => exact hs
  | raises _ c hc => exact errReg_legal hc
  | answers | stores | storesTwice | sends => rfl
  | receives => exact feed_statusWf _ hs
  | exchanges => exact feed_statusWf _ rfl
  | arrives => exact feed_statusWf _ hs
  | timesOut => exact timeoutEvent_statusWf hs

/-- Settles O58: `ERR` is only ever written with OK or with a cause other than BUSY. -/
theorem stepKeepsStatus : Obligations.StepKeepsStatus :=
  fun _ _ hs h => step_induct (P := State.StatusWf) (fun _ _ h => h) (fun _ _ => ran_statusWf) hs h

/-! ### The sequencer (R16, R18, R21) -/

/-- `State.SequencerWf` without what it says of `RXQ`, which holds only once the bytes that arrived have been taken. -/
def State.StageWf (s : State) : Prop :=
  match s.rxs with
  | .idle => s.busy = false ∧ s.cnt = 0 ∧ s.seq = .ret
  | .hdr => s.busy = true ∧ s.cnt.toNat ≤ 3
  | .pay => s.busy = true ∧ s.cnt.toNat < s.len.toNat
  | .trl => s.busy = true ∧ s.cnt.toNat ≤ 3

theorem sequencerWf_iff (s : State) : s.SequencerWf ↔ s.StageWf ∧ (s.rxs ≠ .idle → s.rxq = []) := by
  unfold State.SequencerWf State.StageWf
  cases s.rxs <;> simp [and_assoc]

theorem stageWf_idle {s : State} (hr : s.rxs = .idle) :
    s.StageWf ↔ s.busy = false ∧ s.cnt = 0 ∧ s.seq = .ret := by rw [State.StageWf, hr]

theorem stageWf_hdr {s : State} (hr : s.rxs = .hdr) : s.StageWf ↔ s.busy = true ∧ s.cnt.toNat ≤ 3 := by
  rw [State.StageWf, hr]

theorem stageWf_pay {s : State} (hr : s.rxs = .pay) : s.StageWf ↔ s.busy = true ∧ s.cnt.toNat < s.len.toNat := by
  rw [State.StageWf, hr]

theorem stageWf_trl {s : State} (hr : s.rxs = .trl) : s.StageWf ↔ s.busy = true ∧ s.cnt.toNat ≤ 3 := by
  rw [State.StageWf, hr]

/-- A block that is not busy receives nothing. -/
theorem stageWf_rxs_of_not_busy {s : State} (h : s.StageWf) (hb : s.busy = false) : s.rxs = .idle := by
  cases hr : s.rxs with
  | idle => rfl
  | hdr => simp [((stageWf_hdr hr).mp h).1] at hb
  | pay => simp [((stageWf_pay hr).mp h).1] at hb
  | trl => simp [((stageWf_trl hr).mp h).1] at hb

/-- The counter after one more byte of a stage; it is 9 bits wide and a stage has at most 255 bytes. -/
theorem cnt_succ_toNat {c : BitVec 9} (h : c.toNat < 255) : (c + 1).toNat = c.toNat + 1 := by
  bv_omega

theorem took_stageWf {s t : State} {b : Byte} (hs : s.StageWf) (h : Took s b t) : t.StageWf := by
  cases h with
  | header hr hc =>
    obtain ⟨hbusy, -⟩ := (stageWf_hdr hr).mp hs
    have hn := cnt_succ_toNat (c := s.cnt) (by omega)
    exact (stageWf_hdr (by exact hr)).mpr ⟨hbusy, by simp only [hn]; omega⟩
  | headerEnd hr l =>
    obtain ⟨hbusy, -⟩ := (stageWf_hdr hr).mp hs
    by_cases hl : l = 0
    · exact (stageWf_trl (if_pos hl)).mpr ⟨hbusy, Nat.zero_le 3⟩
    · have hpos : 0 < l.toNat := Nat.pos_of_ne_zero fun h0 => hl (BitVec.eq_of_toNat_eq h0)
      exact (stageWf_pay (if_neg hl)).mpr ⟨hbusy, hpos⟩
  | payload hr hc =>
    obtain ⟨hbusy, -⟩ := (stageWf_pay hr).mp hs
    have hn := cnt_succ_toNat (c := s.cnt) (by have := s.len.isLt; omega)
    exact (stageWf_pay (by exact hr)).mpr ⟨hbusy, by simp only [hn]; exact hc⟩
  | payloadEnd hr =>
    obtain ⟨hbusy, -⟩ := (stageWf_pay hr).mp hs
    exact (stageWf_trl rfl).mpr ⟨hbusy, Nat.zero_le 3⟩
  | trailer hr hc =>
    obtain ⟨hbusy, -⟩ := (stageWf_trl hr).mp hs
    have hn := cnt_succ_toNat (c := s.cnt) (by omega)
    exact (stageWf_trl (by exact hr)).mpr ⟨hbusy, by simp only [hn]; omega⟩

/-- The invariant that every byte of a reception keeps: what the obligation says, but for `RXQ`. -/
structure State.Coherent (s : State) : Prop where
  stage : s.StageWf
  registers : s.RegistersWf
  seq : s.seq.Legal

/-- An idle block with no host sequence in progress. -/
theorem coherent_of_idle {s : State} (hr : s.rxs = .idle) (hb : s.busy = false) (hc : s.cnt = 0) (hq : s.seq = .ret)
    (hw : s.RegistersWf) : s.Coherent :=
  ⟨(stageWf_idle hr).mpr ⟨hb, hc, hq⟩, hw, hq ▸ trivial⟩

/-- A reception that has just started (43_framing.md R116). -/
theorem coherent_startParse {s : State} {q : HostSeq} (hw : s.RegistersWf) (hq : q.Legal) : (s.startParse q).Coherent :=
  ⟨(stageWf_hdr rfl).mpr ⟨rfl, Nat.zero_le 3⟩, hw, hq⟩

theorem sent_registersWf (s : State) (cmd : List Byte) (h : s.RegistersWf) : (s.sent cmd).RegistersWf :=
  ⟨h.1, crcReg_bit16 cmd⟩

/-- However the host goes on when a frame has ended: the block is idle, or receives for a sequence at a legal place. -/
theorem reacted_coherent {L : Prop} {s t : State} (h : Reacted L s t) (hL : L) (hr : s.rxs = .idle) (hc : s.cnt = 0)
    (hq : s.seq = .ret) (hw : s.RegistersWf) : t.Coherent := by
  cases h with
  | answers => exact coherent_of_idle hr rfl hc hq hw
  | raises => exact coherent_of_idle rfl rfl rfl hq hw
  | waits cmd q _ hlegal => exact coherent_startParse (sent_registersWf s cmd hw) (hlegal hL)
  | loads => exact coherent_of_idle hr rfl hc hq hw
  | resets cmd => exact coherent_of_idle hr rfl hc hq (sent_registersWf s cmd hw)

theorem feed_coherent (q : List Byte) {s : State} (h : s.Coherent) : (feed q s).Coherent := by
  refine feed_induct (P := State.Coherent) (fun s _ h => ⟨h.stage, h.registers, h.seq⟩) ?_ ?_ q s h
  · intro s b t hs hi hb
    have hw := rxByte_registersWf b hs.registers
    have hq := rxByte_seq s b
    rw [hb] at hw hq
    exact ⟨took_stageWf hs.stage (rxByte_none hi hb), hw, hq ▸ hs.seq⟩
  · intro s b t e hs _ hb
    obtain ⟨he, hr, hc, -⟩ := rxByte_some hb
    have hw := rxByte_registersWf b hs.registers
    have hq := rxByte_seq s b
    rw [hb] at hw hq
    exact reacted_coherent (react_cases t t.seq e he) (hq ▸ hs.seq) hr hc rfl hw

/-- A delivery that leaves the block waiting has been taken whole. -/
theorem feed_rxq (q : List Byte) (s : State) : (feed q s).rxs ≠ .idle → (feed q s).rxq = [] := by
  induction q generalizing s with
  | nil => exact fun _ => rfl
  | cons b q ih =>
    by_cases hi : s.rxs = .idle
    · rw [feed_idle hi]; exact fun h => absurd hi h
    · rcases hb : s.rxByte b with ⟨t, _ | e⟩
      · rw [feed_cons_none hi hb]; exact ih t
      · rw [feed_cons_some hi hb]; exact ih _

/-- The invariant of the obligation: coherent, and a waiting reception has taken every byte that arrived. -/
def State.Settled (s : State) : Prop := s.Coherent ∧ (s.rxs ≠ .idle → s.rxq = [])

theorem settled_iff (s : State) : s.Settled ↔ s.SequencerWf ∧ s.RegistersWf ∧ s.seq.Legal := by
  rw [sequencerWf_iff]
  exact ⟨fun ⟨h, hq⟩ => ⟨⟨h.stage, hq⟩, h.registers, h.seq⟩, fun ⟨⟨hs, hq⟩, hw, hl⟩ => ⟨⟨hs, hw, hl⟩, hq⟩⟩

theorem settled_of_idle {s : State} (hr : s.rxs = .idle) (hb : s.busy = false) (hc : s.cnt = 0) (hq : s.seq = .ret)
    (hw : s.RegistersWf) : s.Settled :=
  ⟨coherent_of_idle hr hb hc hq hw, fun h => absurd hr h⟩

theorem feed_settled (q : List Byte) {s : State} (h : s.Coherent) : (feed q s).Settled := ⟨feed_coherent q h, feed_rxq q s⟩

theorem timeoutEvent_settled {s : State} (h : s.Settled) : s.timeoutEvent.Settled := by
  unfold State.timeoutEvent
  split
  · exact h
  · next c hc =>
    have hne : (Except.error c : ParseEnd) ≠ .error .busy := fun he => timeoutCause_ne_busy hc (Except.error.inj he)
    exact feed_settled _ (reacted_coherent (react_cases (s.finish c.errReg) s.seq _ hne) h.1.seq rfl rfl rfl h.1.registers)

theorem ran_settled {s t : State} (hs : s.Settled) (h : Ran s t) : t.Settled := by
  obtain ⟨hcoh, hrxq⟩ := hs
  have hidle (hb : s.busy = false) : s.rxs = .idle ∧ s.cnt = 0 ∧ s.seq = .ret :=
    have hr := stageWf_rxs_of_not_busy hcoh.stage hb
    ⟨hr, ((stageWf_idle hr).mp hcoh.stage).2⟩
  cases h with
  | refused | shows => exact ⟨⟨hcoh.stage, hcoh.registers, hcoh.seq⟩, hrxq⟩
  | answers hb crc ki len r hcrc =>
    obtain ⟨hr, hc, hq⟩ := hidle hb
    refine settled_of_idle hr rfl hc hq ⟨hcoh.registers.1, ?_⟩
    rcases hcrc with rfl | hcrc
    · exact hcoh.registers.2
    · exact hcrc
  | raises hb => exact settled_of_idle rfl rfl rfl (hidle hb).2.2 hcoh.registers
  | stores hb | storesTwice hb =>
    obtain ⟨hr, hc, hq⟩ := hidle hb
    exact settled_of_idle hr rfl hc hq hcoh.registers
  | sends hb cmd =>
    obtain ⟨hr, hc, hq⟩ := hidle hb
    exact settled_of_idle hr rfl hc hq (sent_registersWf s.started cmd hcoh.registers)
  | receives => exact feed_settled _ (coherent_startParse hcoh.registers trivial)
  | exchanges _ cmd q _ hlegal =>
    exact feed_settled _ (coherent_startParse (sent_registersWf s.started cmd hcoh.registers) hlegal)
  | arrives bs => exact feed_settled _ hcoh
  | timesOut => exact timeoutEvent_settled ⟨hcoh, hrxq⟩

/-- Settles O57: everything an instruction or event can do keeps `State.Settled`, which is the three invariants together. -/
theorem stepKeepsSequencer : Obligations.StepKeepsSequencer := by
  intro s t hseq hreg hlegal h
  exact (settled_iff t).mp (step_induct (P := State.Settled) (fun _ _ h => ⟨⟨h.1.stage, h.1.registers, h.1.seq⟩, h.2⟩)
    (fun _ _ => ran_settled) ((settled_iff s).mpr ⟨hseq, hreg, hlegal⟩) h)

end Sys2Proof.Machine
end

section
/-! How a step takes its input (10_state.md R12, log entry 5) and what it leaves of the host's program (30_encoding.md R83,
47_host_sequences.md R246, log entry 35). -/

namespace Sys2Proof.Machine

/-! ### Raising, and handling it -/

theorem issuesOp_iff (inp : Input) :
    issuesOp inp = true ↔ (∃ op a, inp = .issue op a) ∨ ∃ m a, inp = .call m a := by
  cases inp <;> simp [issuesOp]

/-- The model's test for an operation that raised agrees with the statement's. -/
theorem raisedIn_eq_some_iff (inp : Input) (s u : State) (c : Cause) :
    raisedIn inp s u = some c ↔ RaisedBy inp s u c := by
  unfold raisedIn RaisedBy
  rw [← issuesOp_iff]
  split
  · next c' hout =>
    rw [hout, Option.ite_none_right_eq_some]
    simp only [Bool.or_eq_true, Bool.and_eq_true, decide_eq_true_eq, Option.some.injEq, Result.error.injEq]
    tauto
  · next hout => exact iff_of_false nofun fun ⟨hc, _⟩ => hout c hc

/-- A step in which no frame was being received and no operation was issued raises nothing. -/
theorem raisedIn_eq_none {inp : Input} {s : State} (hop : issuesOp inp = false) (hr : s.rxs = .idle) (u : State) :
    raisedIn inp s u = none := by
  unfold raisedIn
  split <;> simp [hop, hr]

/-- A line that does not answer for `c` and does not end the search for its handler: no operation, and no handler that names
the kind of `c` (R83). -/
def PassedOver (c : Cause) (x : Input) : Prop :=
  (∀ op a, x ≠ .issue op a) ∧ (∀ m a, x ≠ .call m a) ∧ ∀ k act, x = .onError k act → errorKindCode k ≠ c.kind

theorem handledBy_iff (c : Cause) (more : List Input) :
    HandledBy c more ↔ ∃ pre k post, more = pre ++ .onError k .goOn :: post ∧ errorKindCode k = c.kind ∧
      ∀ x ∈ pre, PassedOver c x := Iff.rfl

theorem not_handledBy_nil (c : Cause) : ¬ HandledBy c [] := by
  rintro ⟨pre, k, post, h, -⟩
  cases pre <;> cases h

theorem handledBy_cons (c : Cause) (x : Input) (more : List Input) :
    HandledBy c (x :: more) ↔
      (∃ k, x = .onError k .goOn ∧ errorKindCode k = c.kind) ∨ (PassedOver c x ∧ HandledBy c more) := by
  rw [handledBy_iff, handledBy_iff]
  constructor
  · rintro ⟨pre, k, post, h, hk, hpre⟩
    cases pre with
    | nil => cases h; exact .inl ⟨k, rfl, hk⟩
    | cons y pre =>
      cases h
      exact .inr ⟨hpre _ List.mem_cons_self, pre, k, post, rfl, hk, fun z hz => hpre z (List.mem_cons_of_mem _ hz)⟩
  · rintro (⟨k, rfl, hk⟩ | ⟨hx, pre, k, post, rfl, hk, hpre⟩)
    · exact ⟨[], k, more, rfl, hk, fun _ h => nomatch h⟩
    · exact ⟨x :: pre, k, post, rfl, hk, List.forall_mem_cons.mpr ⟨hx, hpre⟩⟩

/-- The model's search for a handler agrees with the statement's. -/
theorem handled_iff (c : Cause) (more : List Input) : handled c more = true ↔ HandledBy c more := by
  induction more with
  | nil => simp [handled, not_handledBy_nil]
  | cons x more ih =>
    rw [handledBy_cons]
    cases x with
    | issue op a => simp [handled, PassedOver]
    | call m a => simp [handled, PassedOver]
    | line bs => simp [handled, PassedOver, ih]
    | record f bs => simp [handled, PassedOver, ih]
    | timeout => simp [handled, PassedOver, ih]
    | onError k act =>
      by_cases hk : errorKindCode k = c.kind
      · cases act <;> simp [handled, PassedOver, hk]
      · simp [handled, PassedOver, hk, ih]

theorem afterRaise_handled {c : Cause} {more : List Input} (h : HandledBy c more) : afterRaise c more = more :=
  if_pos ((handled_iff c more).mpr h)

theorem afterRaise_unhandled {c : Cause} {more : List Input} (h : ¬ HandledBy c more) :
    afterRaise c more = more.filter fun x => !inProgram x :=
  if_neg fun hh => h ((handled_iff c more).mp hh)

/-! ### What runs for an input -/

/-- `exec` is total: every arm answers a next state. -/
theorem exec_next (i : Instr) (s : State) : ∃ u, exec i s = .next u := by cases i <;> exact ⟨_, rfl⟩

theorem step_nil {s : State} (h : s.inq = []) : step s = .next s := by rw [step, h]

/-- What the block does with one input: the instruction it decodes to, or the event it is. -/
def runInput (inp : Input) (s : State) : Host.Outcome State Fault Refusal :=
  match decode inp with
  | .ok i => exec i s
  | .error _ => noInstr inp s

theorem runInput_decoded {inp : Input} {i : Instr} (h : decode inp = .ok i) (s : State) : runInput inp s = exec i s := by
  rw [runInput, h]

theorem step_cons {s : State} {inp : Input} {more : List Input} (h : s.inq = inp :: more) :
    step s = hostRuns inp { s with inq := more } (runInput inp { s with inq := more }) := by
  rw [step, h]
  rfl

theorem hostRuns_raised {inp : Input} {s u : State} {c : Cause} (hu : u.inq = s.inq) (hr : raisedIn inp s u = some c) :
    hostRuns inp s (.next u) = .next { u with inq := afterRaise c s.inq } := by
  rw [hostRuns, hostAfter_eq inp hu, hr]

theorem hostRuns_quiet {inp : Input} {s u : State} (hu : u.inq = s.inq) (hr : raisedIn inp s u = none) :
    hostRuns inp s (.next u) = .next u := by
  rw [hostRuns, hostAfter_eq inp hu, hr]

/-- The two four-byte patterns of the line (R63, R64). -/
theorem decodeLine_some {bs : List Byte} {i : Instr} (h : decodeLine bs = some i) :
    (∃ l, bs = headerBytes l ∧ i = .wFrameHeader l) ∨ ∃ k0 k1, bs = trailerBytes k0 k1 ∧ i = .wFrameTrailer k0 k1 := by
  unfold decodeLine at h
  split at h
  · next b0 b1 b2 b3 =>
    split at h
    · next hb =>
      obtain ⟨rfl, rfl, rfl⟩ := hb
      exact .inl ⟨b2, rfl, (Option.some.inj h).symm⟩
    · split at h
      · next hb =>
        obtain ⟨rfl, rfl⟩ := hb
        exact .inr ⟨b0, b1, rfl, (Option.some.inj h).symm⟩
      · cases h
  · cases h

/-- Bytes on the line are delivered, whether they are read as a frame part or not (R12, log entry 10). -/
theorem runInput_line (bs : List Byte) (s : State) : runInput (.line bs) s = .next (s.deliver bs) := by
  cases h : decodeLine bs with
  | none => simp only [runInput, decode, h]; rfl
  | some i =>
    rw [runInput_decoded (i := i) (by rw [decode, h])]
    rcases decodeLine_some h with ⟨l, rfl, rfl⟩ | ⟨k0, k1, rfl, rfl⟩ <;> rfl

/-- With no frame being received, bytes join `RXQ` (R12). -/
theorem deliver_idle {s : State} (h : s.rxs = .idle) (bs : List Byte) : s.deliver bs = { s with rxq := s.rxq ++ bs } :=
  feed_idle h _

theorem step_line_idle {s : State} {bs : List Byte} {more : List Input} (h : s.inq = .line bs :: more)
    (hr : s.rxs = .idle) : step s = .next { s with inq := more, rxq := s.rxq ++ bs } := by
  have hdeliver := deliver_idle (s := { s with inq := more }) hr bs
  have hquiet := raisedIn_eq_none (inp := .line bs) (s := { s with inq := more }) rfl hr
  rw [step_cons h, runInput_line, hdeliver]
  exact hostRuns_quiet rfl (hquiet _)

/-- A handler line that comes up by itself does nothing (R83): with the same state before and after, no reception ended. -/
theorem step_onError {s : State} {k : ErrorKind} {a : HandlerAction} {more : List Input}
    (h : s.inq = .onError k a :: more) : step s = .next { s with inq := more } := by
  have hraised : raisedIn (.onError k a) { s with inq := more } { s with inq := more } = none := by
    rw [Option.eq_none_iff_forall_ne_some]
    intro c hc
    obtain ⟨-, ⟨hop | hop, -⟩ | ⟨hbefore, hafter⟩⟩ := (raisedIn_eq_some_iff _ _ _ _).mp hc
    · obtain ⟨_, _, hop⟩ := hop; cases hop
    · obtain ⟨_, _, hop⟩ := hop; cases hop
    · exact hbefore hafter
  rw [step_cons h]
  exact hostRuns_quiet rfl hraised

/-- Settles O53, clause by clause. -/
theorem stepRunsDecoded : Obligations.StepRunsDecoded := by
  refine ⟨?_, fun c more => ⟨afterRaise_handled, afterRaise_unhandled⟩, fun k a more s => step_onError,
    fun s => step_nil, fun bs more s => step_line_idle⟩
  intro inp more i s hi hd _
  obtain ⟨u, hu⟩ := exec_next i { s with inq := more }
  have hinq : u.inq = more := ran_inq (exec_cases hu)
  have hstep : step s = hostRuns inp { s with inq := more } (.next u) := by rw [step_cons hi, runInput_decoded hd, hu]
  refine ⟨u, hu, fun c hc => ?_, fun hc => ⟨?_, hinq⟩⟩
  · have hsome := (raisedIn_eq_some_iff inp { s with inq := more } u c).mpr hc
    exact hstep.trans (hostRuns_raised hinq hsome)
  · have hnone : raisedIn inp { s with inq := more } u = none :=
      Option.eq_none_iff_forall_ne_some.mpr fun c hr => hc c ((raisedIn_eq_some_iff inp _ u c).mp hr)
    exact hstep.trans (hostRuns_quiet hinq hnone)

end Sys2Proof.Machine
end

section
/-! The invariant of the image (20_memory.md R40, R43), and with it what no step may touch (10_state.md R22) or take back
(R12): kept by a write inside the image, by a frame sent, by one byte of a reception, by what the host does when a frame
ends (`react_cases`), by everything an instruction or event can do (`Ran`), and so by a step. -/

namespace Sys2Proof.Machine

/-- `s` is a canonical successor of `o`: its image is in canonical form, the parameters and constant tables are those of
`o`, and what `o` had sent is still at the front of `TXQ`. -/
structure State.GrownFrom (s o : State) : Prop where
  image : s.ImageWf
  cfg : s.cfg = o.cfg
  txq : o.txq <+: s.txq

theorem grownFrom_refl {s : State} (h : s.ImageWf) : s.GrownFrom s := ⟨h, rfl, [], List.append_nil _⟩

/-- A change that leaves image, parameters and `TXQ` alone. -/
theorem grownFrom_frame {s t o : State} (h : s.GrownFrom o) (himg : t.img = s.img) (hcfg : t.cfg = s.cfg)
    (htxq : t.txq = s.txq) : t.GrownFrom o :=
  ⟨by rw [State.ImageWf, himg, hcfg]; exact h.image, hcfg.trans h.cfg, htxq ▸ h.txq⟩

/-! ### The two operations that change the image or `TXQ` -/

/-- A write that passed the bounds check (R43). -/
theorem wrBytes_grownFrom {s o : State} (h : s.GrownFrom o) {a : Nat} {bs : List Byte}
    (hb : a + bs.length ≤ Config.imgSize) : (s.wrBytes a bs).GrownFrom o :=
  ⟨setBytes_wf h.image hb, h.cfg, h.txq⟩

/-- A frame sent goes to the end of `TXQ` (R12). -/
theorem sent_grownFrom {s o : State} (h : s.GrownFrom o) (cmd : List Byte) : (s.sent cmd).GrownFrom o :=
  ⟨h.image, h.cfg, h.txq.trans ⟨_, rfl⟩⟩

/-! ### Receiving -/

theorem rxByte_grownFrom {s o : State} (h : s.GrownFrom o) (b : Byte) : (s.rxByte b).1.GrownFrom o := by
  rw [rxByte_frame]
  exact grownFrom_frame h rfl rfl rfl

/-- However the host goes on when a frame has ended: it stores inside the image, or sends, or does neither. -/
theorem reacted_grownFrom {L : Prop} {s t o : State} (hs : s.GrownFrom o) (h : Reacted L s t) : t.GrownFrom o := by
  cases h with
  | answers | raises => exact grownFrom_frame hs rfl rfl rfl
  | waits cmd | resets cmd => exact grownFrom_frame (sent_grownFrom hs cmd) rfl rfl rfl
  | loads buf fw hb => exact grownFrom_frame (wrBytes_grownFrom hs hb) rfl rfl rfl

theorem react_grownFrom {s o : State} (hs : s.GrownFrom o) (q : HostSeq) {e : ParseEnd} (he : e ≠ .error .busy) :
    (s.react q e).GrownFrom o :=
  have hret : ({ s with seq := .ret } : State).GrownFrom o := grownFrom_frame hs rfl rfl rfl
  reacted_grownFrom hret (react_cases s q e he)

theorem feed_grownFrom (q : List Byte) {s o : State} (h : s.GrownFrom o) : (feed q s).GrownFrom o := by
  refine feed_induct (P := (State.GrownFrom · o)) (fun _ _ h => grownFrom_frame h rfl rfl rfl) ?_ ?_ q s h
  · intro s b t hs _ hb
    simpa only [hb] using rxByte_grownFrom hs b
  · intro s b t e hs _ hb
    have ht : t.GrownFrom o := by simpa only [hb] using rxByte_grownFrom hs b
    exact react_grownFrom ht t.seq (rxByte_some hb).1

theorem timeoutEvent_grownFrom {s o : State} (h : s.GrownFrom o) : s.timeoutEvent.GrownFrom o := by
  unfold State.timeoutEvent
  split
  · exact h
  · next c hc =>
    have hfinish : (s.finish c.errReg).GrownFrom o := grownFrom_frame h rfl rfl rfl
    exact feed_grownFrom _ (react_grownFrom hfinish s.seq fun he => timeoutCause_ne_busy hc (Except.error.inj he))

/-! ### A step -/

theorem ran_grownFrom {s t o : State} (hs : s.GrownFrom o) (h : Ran s t) : t.GrownFrom o := by
  have hstarted : s.started.GrownFrom o := grownFrom_frame hs rfl rfl rfl
  cases h with
  | refused | shows | answers | raises => exact grownFrom_frame hs rfl rfl rfl
  | stores _ a bs hb => exact grownFrom_frame (wrBytes_grownFrom hstarted hb) rfl rfl rfl
  | storesTwice _ a a' bs bs' hb hb' =>
    exact grownFrom_frame (wrBytes_grownFrom (wrBytes_grownFrom hstarted hb) hb') rfl rfl rfl
  | sends _ cmd => exact grownFrom_frame (sent_grownFrom hstarted cmd) rfl rfl rfl
  | receives => exact feed_grownFrom _ (grownFrom_frame hstarted rfl rfl rfl)
  | exchanges _ cmd => exact feed_grownFrom _ (grownFrom_frame (sent_grownFrom hstarted cmd) rfl rfl rfl)
  | arrives bs => exact feed_grownFrom _ hs
  | timesOut => exact timeoutEvent_grownFrom hs

/-- Settles O56: everything an instruction or event can do keeps `State.GrownFrom` the state the step started from. -/
theorem stepKeepsImageForm : Obligations.StepKeepsImageForm := by
  intro s t hs h
  obtain ⟨himage, hcfg, sent, htxq⟩ : t.GrownFrom s :=
    step_induct (P := (State.GrownFrom · s)) (fun _ _ h => grownFrom_frame h rfl rfl rfl) (fun _ _ => ran_grownFrom)
      (grownFrom_refl hs) h
  exact ⟨himage, hcfg, sent, htxq.symm⟩

end Sys2Proof.Machine
end

section
/-! Halves and words as their bytes (20_memory.md R41): taking the bytes of a value and putting bytes together undo each
other, and a mask acts byte by byte. -/

namespace Sys2Proof.Machine

theorem le16_halfBytes (v : Half) : le16 (v.extractLsb' 0 8) (v.extractLsb' 8 8) = v := by
  rw [le16, BitVec.extractLsb'_append_extractLsb'_eq_extractLsb' (by rfl)]
  exact BitVec.extractLsb'_eq_self

theorem le32_wordBytes (v : Word) :
    le32 (v.extractLsb' 0 8) (v.extractLsb' 8 8) (v.extractLsb' 16 8) (v.extractLsb' 24 8) = v := by
  rw [le32, BitVec.extractLsb'_append_extractLsb'_eq_extractLsb' (by rfl),
    BitVec.extractLsb'_append_extractLsb'_eq_extractLsb' (by rfl),
    BitVec.extractLsb'_append_extractLsb'_eq_extractLsb' (by rfl)]
  exact BitVec.extractLsb'_eq_self

theorem wordBytes_eq (v : Word) :
    wordBytes v = [BitVec.ofNat 8 v.toNat, BitVec.ofNat 8 (v.toNat / 256), BitVec.ofNat 8 (v.toNat / 65536),
      BitVec.ofNat 8 (v.toNat / 16777216)] := by
  simp only [wordBytes, BitVec.extractLsb', Nat.shiftRight_eq_div_pow, Nat.reducePow, Nat.div_one]

theorem le32_toNat (b0 b1 b2 b3 : Byte) :
    (le32 b0 b1 b2 b3).toNat = b0.toNat + 256 * b1.toNat + 65536 * b2.toNat + 16777216 * b3.toNat := by
  have happend {n : Nat} (x : BitVec n) (b : Byte) : (x ++ b).toNat = 256 * x.toNat + b.toNat := by
    rw [BitVec.toNat_append, ← Nat.shiftLeft_add_eq_or_of_lt b.isLt, Nat.shiftLeft_eq]
    omega
  rw [le32, happend, happend, happend]
  omega

theorem wordBytes_le32 (b0 b1 b2 b3 : Byte) : wordBytes (le32 b0 b1 b2 b3) = [b0, b1, b2, b3] := by
  have hbyte {n : Nat} {b : Byte} (h : n % 256 = b.toNat) : BitVec.ofNat 8 n = b := BitVec.eq_of_toNat_eq h
  rw [wordBytes_eq, le32_toNat, hbyte (b := b0) (by omega), hbyte (b := b1) (by omega), hbyte (b := b2) (by omega),
    hbyte (b := b3) (by omega)]

theorem wordBytes_eq_iff (v : Word) (b0 b1 b2 b3 : Byte) :
    wordBytes v = [b0, b1, b2, b3] ↔ v = le32 b0 b1 b2 b3 := by
  constructor
  · intro h
    obtain ⟨rfl, rfl, rfl, rfl⟩ : _ ∧ _ ∧ _ ∧ _ := by simpa [wordBytes] using h
    exact (le32_wordBytes v).symm
  · rintro rfl
    exact wordBytes_le32 b0 b1 b2 b3

theorem le32_inj (a0 a1 a2 a3 b0 b1 b2 b3 : Byte) :
    le32 a0 a1 a2 a3 = le32 b0 b1 b2 b3 ↔ a0 = b0 ∧ a1 = b1 ∧ a2 = b2 ∧ a3 = b3 := by
  rw [← wordBytes_eq_iff, wordBytes_le32]
  simp

theorem le32_and (a0 a1 a2 a3 b0 b1 b2 b3 : Byte) :
    le32 a0 a1 a2 a3 &&& le32 b0 b1 b2 b3 = le32 (a0 &&& b0) (a1 &&& b1) (a2 &&& b2) (a3 &&& b3) :=
  BitVec.and_append.trans (by simp only [BitVec.and_append]; rfl)

end Sys2Proof.Machine
end

section
/-! The decoder undoes the encoder (30_encoding.md R60, R81, R82): operations and host sequences by their tables, the frame
parts by the patterns of R63 and R64, the records by their layouts (R68, R76, R77, R78). -/

namespace Sys2Proof.Machine

/-- The operations of R81 and the host sequences of R82 keep their operands on the operand lines. -/
theorem decode_encode_of_issued {i : Instr} (h : issuedInstr i = true) : decode (encode i) = .ok i := by
  cases i
  case wFrameHeader | wFrameTrailer | mChanRecord | mNameRecord | mFmEntry => cases h
  case mSetFields c => cases c <;> cases h
  all_goals rfl

theorem decodeLine_headerBytes (l : Byte) : decodeLine (headerBytes l) = some (.wFrameHeader l) := rfl

/-- A trailer is not taken for a header: its last byte is `0xBA`, a header's is `0x00`. -/
theorem decodeLine_trailerBytes (k0 k1 : Byte) : decodeLine (trailerBytes k0 k1) = some (.wFrameTrailer k0 k1) := by
  have hlast : ¬ (k0 = 0xAB ∧ k1 = 0xCD ∧ (0xBA : Byte) = 0x00) := fun ⟨_, _, h⟩ => absurd h (by decide)
  have htail : (0xDC : Byte) = 0xDC ∧ (0xBA : Byte) = 0xBA := ⟨rfl, rfl⟩
  rw [trailerBytes, decodeLine, if_neg hlast, if_pos htail]

theorem decodeLine_eq_header_iff (bs : List Byte) (l : Byte) :
    decodeLine bs = some (.wFrameHeader l) ↔ bs = headerBytes l := by
  constructor
  · intro h
    obtain ⟨_, rfl, hi⟩ | ⟨_, _, _, hi⟩ := decodeLine_some h <;> cases hi
    rfl
  · rintro rfl
    exact decodeLine_headerBytes l

theorem decodeLine_eq_trailer_iff (bs : List Byte) (k0 k1 : Byte) :
    decodeLine bs = some (.wFrameTrailer k0 k1) ↔ bs = trailerBytes k0 k1 := by
  constructor
  · intro h
    obtain ⟨_, _, hi⟩ | ⟨_, _, rfl, hi⟩ := decodeLine_some h <;> cases hi
    rfl
  · rintro rfl
    exact decodeLine_trailerBytes k0 k1

theorem decodeRecord_recordBytes (freq offset : Word)
    (rxcode txcode codeFlag flagsA flagsB dtmfFlags step scrambler : Byte) :
    decodeRecord .chan (recordBytes freq offset rxcode txcode codeFlag flagsA flagsB dtmfFlags step scrambler) =
      some (.mChanRecord freq offset rxcode txcode codeFlag flagsA flagsB dtmfFlags step scrambler) := by
  have hlen : (recordBytes freq offset rxcode txcode codeFlag flagsA flagsB dtmfFlags step scrambler).length = 16 := rfl
  have hfreq : wordAt (recordBytes freq offset rxcode txcode codeFlag flagsA flagsB dtmfFlags step scrambler) 0 = freq :=
    le32_wordBytes freq
  have hoffset : wordAt (recordBytes freq offset rxcode txcode codeFlag flagsA flagsB dtmfFlags step scrambler) 4 = offset :=
    le32_wordBytes offset
  rw [decodeRecord, if_pos hlen, hfreq, hoffset]
  rfl

theorem decodeRecord_halfBytes (v : Half) : decodeRecord .fm (halfBytes v) = some (.mFmEntry v) :=
  congrArg (fun x => some (Instr.mFmEntry x)) (le16_halfBytes v)

theorem decode_record {f : RecordFmt} {bs : List Byte} {i : Instr} (h : decodeRecord f bs = some i) :
    decode (.record f bs) = .ok i := by rw [decode, h]

theorem decode_line {bs : List Byte} {i : Instr} (h : decodeLine bs = some i) : decode (.line bs) = .ok i := by
  rw [decode, h]

/-- A settings field (R78); a logo line needs its 16 bytes. -/
theorem decode_encodeSet {c : SetContent} (h : c.wellFormed = true) : decode (encodeSet c) = .ok (.mSetFields c) := by
  cases c with
  | byteField | password | unlock => rfl
  | logo1 | logo2 => exact decode_record (if_pos (beq_iff_eq.mp h))

/-- Settles O54, by the port an instruction comes through. -/
theorem decodeOfEncode : Obligations.DecodeOfEncode := by
  intro i h
  cases i
  case wFrameHeader l => exact decode_line (decodeLine_headerBytes l)
  case wFrameTrailer k0 k1 => exact decode_line (decodeLine_trailerBytes k0 k1)
  case mChanRecord => exact decode_record (decodeRecord_recordBytes ..)
  case mNameRecord => exact decode_record (if_pos (beq_iff_eq.mp h))
  case mFmEntry v => exact decode_record (decodeRecord_halfBytes v)
  case mSetFields => exact decode_encodeSet h
  all_goals exact decode_encode_of_issued rfl

end Sys2Proof.Machine
end

section
/-! The operation map (30_encoding.md R81) and the bits of the opcode table (R63, R64, R68, R77; log entry 6). -/

namespace Sys2Proof.Machine

/-- The code that an instruction is encoded with selects it. -/
theorem opselIs_of_encode {i : Instr} {op : Byte} {a : Operands} (h : encode i = .issue op a) : OpselIs op i := by
  have hissued : issuedInstr i = true := by rw [issuedInstr, h]
  exact ⟨a, h, h ▸ decode_encode_of_issued hissued⟩

/-- No row of the decoder has a code that is not in the table of R81. -/
theorem decodeOp_eq_none {op : Byte} (h : op.toNat ∉ opselCodes) (a : Operands) : decodeOp op a = none := by
  unfold decodeOp
  split
  case h_34 => rfl
  all_goals
    next hop =>
      rw [hop] at h
      exact absurd (by decide) h

theorem runInput_unknown {op : Byte} (h : op.toNat ∉ opselCodes) (a : Operands) {s : State} (hb : s.busy = false) :
    runInput (.issue op a) s = .next (s.failed 5 3 .badOp) := by
  have hdecode : decode (.issue op a) = .error .badOpsel := by rw [decode, decodeOp_eq_none h]
  rw [runInput, hdecode]
  exact (issue_idle hb fun t => t.raise .badOp).trans (congrArg Host.Outcome.next (busy_raise hb .badOp))

/-- The step that takes an unknown code on an idle block raises BAD_OP (R81, R250). -/
theorem step_unknown {op : Byte} {a : Operands} {more : List Input} {s : State} (h : op.toNat ∉ opselCodes)
    (hb : s.busy = false) (hi : s.inq = .issue op a :: more) :
    step s = .next (({ s with inq := afterRaise .badOp more } : State).failed 5 3 .badOp) := by
  have hraised : RaisedBy (.issue op a) { s with inq := more } (({ s with inq := more } : State).failed 5 3 .badOp) .badOp :=
    ⟨rfl, .inl ⟨.inl ⟨op, a, rfl⟩, .inr rfl⟩⟩
  have hrun := runInput_unknown (s := { s with inq := more }) h a hb
  rw [step_cons hi, hrun]
  exact hostRuns_raised rfl ((raisedIn_eq_some_iff ..).mpr hraised)

/-- Settles O15: the code of each of the 33 rows is read off the row's encoding; `step_unknown` is the clause behind them. -/
theorem operationMap : Obligations.OperationMap := by
  unfold Obligations.OperationMap
  and_intros
  on_goal 34 => exact fun _ _ _ _ => step_unknown
  all_goals
    intros
    exact opselIs_of_encode rfl

theorem lowBytes_word (w : Word) : lowBytes 4 w.toNat = wordBytes w := by
  simp only [lowBytes, wordBytes_eq, Nat.div_div_eq_div_mul, Nat.reduceMul]

/-- A 32-bit row is read as four bytes of the line, the first from the highest bits. -/
theorem decodeTableWord_word (w : Word) : decodeTableWord 32 w.toNat = decodeLine (wordBytes w).reverse := by
  have hinput : tableInput 32 w.toNat = .line (wordBytes w).reverse := by rw [tableInput, if_pos rfl, lowBytes_word]
  rw [decodeTableWord, hinput, decode]
  cases decodeLine (wordBytes w).reverse <;> rfl

theorem exists_le32 (w : Word) : ∃ b0 b1 b2 b3, w = le32 b0 b1 b2 b3 := ⟨_, _, _, _, (le32_wordBytes w).symm⟩

theorem and_fullByte (b : Byte) : b &&& 0xFF = b := BitVec.and_allOnes

theorem and_emptyByte (b : Byte) : b &&& 0x00 = 0x00 := BitVec.and_zero

/-- The pattern of R63, byte by byte under its mask. -/
theorem header_pattern_iff (w : Word) (l : Byte) :
    wordBytes w = [0x00, l, 0xCD, 0xAB] ↔ w &&& 0xFFFF00FF#32 = 0xABCD0000#32 ∧ l = w.extractLsb' 8 8 := by
  obtain ⟨b0, b1, b2, b3, rfl⟩ := exists_le32 w
  have hmask : 0xFFFF00FF#32 = le32 0xFF 0x00 0xFF 0xFF := rfl
  have hpattern : 0xABCD0000#32 = le32 0x00 0x00 0xCD 0xAB := rfl
  have hbytes := wordBytes_le32 b0 b1 b2 b3
  obtain ⟨-, hl, -⟩ : _ ∧ (le32 b0 b1 b2 b3).extractLsb' 8 8 = b1 ∧ _ := by simpa [wordBytes] using hbytes
  rw [hbytes, hl, hmask, hpattern, le32_and, le32_inj]
  simp only [and_fullByte, and_emptyByte, List.cons.injEq]
  tauto

/-- The pattern of R64, byte by byte under its mask. -/
theorem trailer_pattern_iff (w : Word) (k0 k1 : Byte) :
    wordBytes w = [0xBA, 0xDC, k1, k0] ↔
      w &&& 0x0000FFFF#32 = 0x0000DCBA#32 ∧ k0 = w.extractLsb' 24 8 ∧ k1 = w.extractLsb' 16 8 := by
  obtain ⟨b0, b1, b2, b3, rfl⟩ := exists_le32 w
  have hmask : 0x0000FFFF#32 = le32 0xFF 0xFF 0x00 0x00 := rfl
  have hpattern : 0x0000DCBA#32 = le32 0xBA 0xDC 0x00 0x00 := rfl
  have hbytes := wordBytes_le32 b0 b1 b2 b3
  obtain ⟨-, -, hk1, hk0⟩ : _ ∧ _ ∧ (le32 b0 b1 b2 b3).extractLsb' 16 8 = b2 ∧ (le32 b0 b1 b2 b3).extractLsb' 24 8 = b3 := by
    simpa [wordBytes] using hbytes
  rw [hbytes, hk0, hk1, hmask, hpattern, le32_and, le32_inj]
  simp only [and_fullByte, and_emptyByte, List.cons.injEq]
  tauto

/-- Settles O55: a 32-bit word is the bytes of a header or a trailer read as one number; the words written out evaluate. -/
theorem wordPatterns : Obligations.WordPatterns := by
  refine ⟨fun w l => ?_, fun w k0 k1 => ?_, rfl, rfl, rfl, rfl, rfl⟩
  · rw [decodeTableWord_word, decodeLine_eq_header_iff, List.reverse_eq_iff]
    exact header_pattern_iff w l
  · rw [decodeTableWord_word, decodeLine_eq_trailer_iff, List.reverse_eq_iff]
    exact trailer_pattern_iff w k0 k1

end Sys2Proof.Machine
end

section
/-! The two frame rows of the opcode table as the arrival of their bytes (43_framing.md R117, R119; log entry 10). -/

namespace Sys2Proof.Machine

theorem exec_wFrameHeader (l : Byte) (s : State) : exec (.wFrameHeader l) s = .next (s.deliver (headerBytes l)) := rfl

theorem exec_wFrameTrailer (k0 k1 : Byte) (s : State) :
    exec (.wFrameTrailer k0 k1) s = .next (s.deliver (trailerBytes k0 k1)) := rfl

/-- With nothing before them in `RXQ`, bytes that arrive go to the sequencer. -/
theorem deliver_of_empty {s : State} (h : s.rxq = []) (bs : List Byte) : s.deliver bs = feed (bs ++ []) s := by
  rw [State.deliver, h, List.nil_append, List.append_nil]

/-- A header that arrives at the start of its stage (R117). -/
theorem deliver_header {s : State} (l : Byte) (h : s.rxs = .hdr) (hc : s.cnt = 0) (hq : s.rxq = []) (hb : s.Buffers) :
    s.deliver (headerBytes l) =
      { s with hb := [0xAB, 0xCD, l, 0x00], len := l, cnt := 0, rxs := if l = 0 then .trl else .pay } := by
  rw [deliver_of_empty hq, headerBytes, feed_header h hc hb.1, feed_nil]
  simp only [← hq]

/-- A trailer that arrives at the start of its stage, of a reception whose payload is the answer (R119). -/
theorem deliver_trailer {s : State} (k0 k1 : Byte) (h : s.rxs = .trl) (hc : s.cnt = 0) (hq : s.rxq = []) (hb : s.Buffers)
    (hs : s.seq = .ret) :
    s.deliver (trailerBytes k0 k1) =
      { s with tb := [k0, k1, 0xDC, 0xBA], ki := BitVec.ofNat 4 s.len.toNat, err := ⟨0, 0⟩, rxs := .idle, cnt := 0,
               busy := false, out := .bytes (obfBytes s.cfg.key 0 (s.rxb.take s.len.toNat)) } := by
  obtain ⟨_, htb, hrxb⟩ := hb
  rw [deliver_of_empty hq, trailerBytes, feed_trailer h hc htb hrxb, feed_nil, hs]
  simp only [State.react, State.succeed, ErrReg.ok, ← hq, ← hs]

/-- Settles O51: the bytes of a row are delivered, and by the stage they wait or the sequencer takes them. -/
theorem framePartsArrive : Obligations.FramePartsArrive := by
  intro l k0 k1 s
  refine ⟨fun h => ⟨?_, ?_⟩, fun h hc hq hb => ?_, fun h hc hq hb hs => ⟨_, obfBytes_xorsKey s.cfg _, ?_⟩⟩
  · rw [exec_wFrameHeader, deliver_idle h, headerBytes]
  · rw [exec_wFrameTrailer, deliver_idle h, trailerBytes]
  · rw [exec_wFrameHeader, deliver_header l h hc hq hb]
  · rw [exec_wFrameTrailer, deliver_trailer k0 k1 h hc hq hb hs]

end Sys2Proof.Machine
end

section
/-! What the record rows answer (log entry 11): a channel record as `CH.DECODE` answers it (45_channel_record.md R172), a text
as its rule cuts it (46 R191, R218), the rest raw. -/

namespace Sys2Proof.Machine

/-! ### Texts -/

theorem byteAt_mem {bs : List Byte} {i : Nat} (h : i < bs.length) : byteAt bs i ∈ bs := by
  rw [byteAt, List.getD_eq_getElem _ _ h]
  exact List.getElem_mem h

theorem byteAt_append_left {a : List Byte} {i : Nat} (h : i < a.length) (b : List Byte) :
    byteAt (a ++ b) i = byteAt a i := List.getD_append _ _ _ _ h

theorem byteAt_append_right {a : List Byte} {i : Nat} (h : a.length ≤ i) (b : List Byte) :
    byteAt (a ++ b) i = byteAt b (i - a.length) := List.getD_append_right _ _ _ _ h

/-- A text followed by its spaces, then nothing or a terminator (R191). -/
theorem isTextOf_append {o spaces rest : List Byte} (hkept : ∀ b ∈ o ++ spaces, b ≠ 0x00 ∧ b ≠ 0xFF)
    (hspaces : ∀ b ∈ spaces, b = 0x20) (hlast : ∀ h : o ≠ [], o.getLast h ≠ 0x20)
    (hrest : ∀ h : rest ≠ [], rest.head h = 0x00 ∨ rest.head h = 0xFF) : IsTextOf o (o ++ spaces ++ rest) := by
  refine ⟨(o ++ spaces).length, by simp, fun i hi => ?_, fun hcut => ?_, by simp, by simp, fun i hoi hi => ?_, fun ho => ?_⟩
  · rw [byteAt_append_left hi]
    exact hkept _ (byteAt_mem hi)
  · have hne : rest ≠ [] := by rintro rfl; simp at hcut
    obtain ⟨b, tail, rfl⟩ := List.exists_cons_of_ne_nil hne
    rw [byteAt_append_right le_rfl, Nat.sub_self]
    exact hrest hne
  · rw [byteAt_append_left hi, byteAt_append_right hoi]
    rw [List.length_append] at hi
    exact hspaces _ (byteAt_mem (by omega))
  · have hpos := List.length_pos_of_ne_nil ho
    rw [List.append_assoc, byteAt_append_left (by omega), byteAt, List.getD_eq_getElem _ _ (by omega),
      ← List.getLast_eq_getElem]
    exact hlast ho

/-- A byte that does not end a text (R191). -/
def textByte (b : Byte) : Bool := b != 0x00 && b != 0xFF

theorem textByte_iff (b : Byte) : textByte b = true ↔ b ≠ 0x00 ∧ b ≠ 0xFF := by simp [textByte]

/-- The byte that is dropped from the end of a text (R191). -/
def spaceByte (b : Byte) : Bool := b == 0x20

theorem spaceByte_iff (b : Byte) : spaceByte b = true ↔ b = 0x20 := by simp [spaceByte]

/-- The bytes before the first terminator, without the spaces that end them, are the text. -/
theorem isTextOf_cut (r : List Byte) : IsTextOf ((r.takeWhile textByte).rdropWhile spaceByte) r := by
  have hspaces : (r.takeWhile textByte).rdropWhile spaceByte ++ (r.takeWhile textByte).rtakeWhile spaceByte =
      r.takeWhile textByte := List.rdropWhile_append_rtakeWhile
  have hcut : r.takeWhile textByte ++ r.dropWhile textByte = r := List.takeWhile_append_dropWhile
  have htext := isTextOf_append (o := (r.takeWhile textByte).rdropWhile spaceByte)
    (spaces := (r.takeWhile textByte).rtakeWhile spaceByte) (rest := r.dropWhile textByte) (fun b hb => ?_)
    (fun b hb => ?_) (fun h => ?_) (fun h => ?_)
  · rwa [hspaces, hcut] at htext
  · rw [hspaces] at hb
    exact (textByte_iff b).mp (List.mem_takeWhile_imp hb)
  · exact (spaceByte_iff b).mp (List.mem_rtakeWhile_imp hb)
  · exact fun hb => List.rdropWhile_last_not spaceByte _ h ((spaceByte_iff _).mpr hb)
  · have hstop := List.head_dropWhile_not textByte h
    simpa [textByte, or_iff_not_imp_left] using hstop

/-- The model's text of the first `width` bytes is the rule's. -/
theorem textOf_isTextOf (width : Nat) (r : List Byte) : IsTextOf (textOf width r) (r.take width) :=
  isTextOf_cut (r.take width)

theorem textOf_isTextOf_self {width : Nat} {r : List Byte} (h : r.length = width) : IsTextOf (textOf width r) r := by
  have := textOf_isTextOf width r
  rwa [List.take_of_length_le h.le] at this

/-! ### Records -/

theorem recordBytes_eq (freq offset : Word) (rxcode txcode codeFlag flagsA flagsB dtmfFlags step scrambler : Byte) :
    recordBytes freq offset rxcode txcode codeFlag flagsA flagsB dtmfFlags step scrambler =
      [BitVec.ofNat 8 freq.toNat, BitVec.ofNat 8 (freq.toNat / 256), BitVec.ofNat 8 (freq.toNat / 65536),
       BitVec.ofNat 8 (freq.toNat / 16777216), BitVec.ofNat 8 offset.toNat, BitVec.ofNat 8 (offset.toNat / 256),
       BitVec.ofNat 8 (offset.toNat / 65536), BitVec.ofNat 8 (offset.toNat / 16777216), rxcode, txcode, codeFlag,
       flagsA, flagsB, dtmfFlags, step, scrambler] := by
  rw [recordBytes, wordBytes_eq, wordBytes_eq]
  rfl

/-- `CH.DECODE` of a channel in range on an idle block (45_channel_record.md R172). -/
theorem exec_chDecode {s : State} {n : Nat} (hb : s.busy = false) (ht : TablesInImage s.cfg) (h1 : 1 ≤ n) (h2 : n ≤ 214) :
    exec (.chDecode n) s =
      .next (s.answered (.channel (channelOf s.cfg (s.rdBytes (s.cfg.chBase + 16 * (n - 1)) 16)))) := by
  have hrecord := channelRecord_ok (s := { s with busy := true }) ht h1 h2
  rw [rdBytes_setBusy] at hrecord
  exact (issue_read hb (fun t => t.channelRecord n) (fun t r => .channel (channelOf t.cfg r))).trans (by rw [hrecord])

/-- Settles O52: every row shows one value; for a channel record it is what `CH.DECODE` makes of the same sixteen bytes. -/
theorem recordRowsAnswer : Obligations.RecordRowsAnswer := by
  intro s
  refine ⟨?_, fun text h => ⟨_, textOf_isTextOf_self h, rfl⟩, fun _ => rfl, fun _ _ => rfl,
    fun line _ => ⟨_, textOf_isTextOf 12 line, rfl, rfl⟩, fun _ => rfl, fun _ _ => rfl⟩
  intro freq offset rxcode txcode codeFlag flagsA flagsB dtmfFlags step scrambler
  refine ⟨_, rfl, fun n s' hb hcfg ht h1 h2 hbytes => ?_⟩
  rw [← recordBytes_eq, ← hcfg] at hbytes
  rw [exec_chDecode hb (hcfg ▸ ht) h1 h2, hbytes, hcfg]

end Sys2Proof.Machine
end

section
/-! Obfuscation (41_obfuscation.md R90 to R93): one rule for `OBF` and `DEOBF` on an idle block; the xor with the key undoes
itself, and the answer to a first part begins the answer to the whole. -/

namespace Sys2Proof.Machine

/-- One `OBF` call (R90): `KI` goes on from 0 by one for each byte. -/
theorem exec_obf {bs : List Byte} {s : State} (hb : s.busy = false) :
    exec (.obf bs) s =
      .next { s with ki := BitVec.ofNat 4 bs.length, err := ⟨0, 0⟩, out := .bytes (obfBytes s.cfg.key 0 bs) } := by
  have hindex : obfIndex 0 bs = BitVec.ofNat 4 bs.length := by rw [obfIndex_eq]; exact BitVec.zero_add _
  rw [exec, execObf, issue_idle hb, State.opObf, State.obf, hindex, State.succeed, ErrReg.ok, ← hb]

theorem exec_deobf (bs : List Byte) (s : State) : exec (.deobf bs) s = exec (.obf bs) s := rfl

/-- Settles O1: the loop of R90 meets the key byte by byte (`obfBytes_xorsKey`), and `DEOBF` is `OBF`. -/
theorem obfXorsRepeatingKey : Obligations.ObfXorsRepeatingKey := fun bs s hb =>
  ⟨opselIs_of_encode rfl, obfBytes s.cfg.key 0 bs, obfBytes_xorsKey s.cfg bs, exec_obf hb,
    (exec_deobf bs s).trans (exec_obf hb)⟩

/-- The two sides of an xor with the key change places: `(b ^^^ k) ^^^ k = b` at every byte. -/
theorem xorsKey_symm {c : Config} {bs o : List Byte} (h : XorsKey c bs o) : XorsKey c o bs := by
  obtain ⟨hlen, hbytes⟩ := h
  refine ⟨hlen.symm, fun i hi => ?_⟩
  rw [hbytes i (hlen ▸ hi), BitVec.xor_assoc, BitVec.xor_self, BitVec.xor_zero]

/-- The transform of R90 undoes itself (R91). -/
theorem obfBytes_obfBytes (c : Config) (bs : List Byte) : obfBytes c.key 0 (obfBytes c.key 0 bs) = bs :=
  (xorsKey_eq (xorsKey_symm (obfBytes_xorsKey c bs))).symm

/-- Settles O2: `OBF` leaves the block idle and `KEY` as it was, so the second call undoes the first. -/
theorem obfTwiceIsIdentity : Obligations.ObfTwiceIsIdentity := by
  intro bs s hb
  refine ⟨_, _, obfBytes s.cfg.key 0 bs, exec_obf hb, rfl, exec_obf hb, ?_⟩
  exact congrArg Result.bytes (obfBytes_obfBytes s.cfg bs)

/-- What follows a sequence does not change what the sequence becomes (R92). -/
theorem take_obfBytes_append (key : List Byte) (k : BitVec 4) (bs ct : List Byte) :
    (obfBytes key k (bs ++ ct)).take bs.length = obfBytes key k bs := by
  rw [obfBytes_append, List.take_left' (obfBytes_length key k bs)]

/-- Byte `j` of the second part goes on in the key where the first part ended (R92). -/
theorem byteAt_obfBytes_append (c : Config) (bs : List Byte) {ct : List Byte} {j : Nat} (hj : j < ct.length) :
    byteAt (obfBytes c.key 0 (bs ++ ct)) (bs.length + j) = byteAt ct j ^^^ byteAt c.key ((bs.length + j) % 16) := by
  have hlt : bs.length + j < (bs ++ ct).length := by rw [List.length_append]; omega
  rw [(obfBytes_xorsKey c (bs ++ ct)).2 _ hlt, byteAt_append_right (Nat.le_add_right ..), Nat.add_sub_cancel_left]

/-- Settles O3: the answer begins with the answer to the first part, which a second `OBF` undoes. -/
theorem obfOfConcatenation : Obligations.ObfOfConcatenation := by
  intro bs ct s hb
  have hfirst := take_obfBytes_append s.cfg.key 0 bs ct
  refine ⟨_, _, _, obfBytes s.cfg.key 0 (bs ++ ct), obfBytes s.cfg.key 0 bs, exec_obf hb, rfl, exec_obf hb, rfl,
    hfirst, fun j hj => byteAt_obfBytes_append s.cfg bs hj, exec_obf hb, ?_⟩
  rw [hfirst, obfBytes_obfBytes]

end Sys2Proof.Machine
end

section
/-! The checksum (42_checksum.md R100, R103): what `CRC16` leaves behind, as the number of R100, and the residue of a sequence
with its own checksum behind it. -/

namespace Sys2Proof.Machine

/-- One `CRC16` call (R100). -/
theorem exec_crc16 {bs : List Byte} {s : State} (hb : s.busy = false) :
    exec (.crc16 bs) s = .next { s with crc := crcReg bs, err := ⟨0, 0⟩, out := .half (crc16 bs) } := by
  rw [exec, execCrc16, issue_idle hb, State.opCrc16, State.succeed, ErrReg.ok, ← hb]

theorem crcReg_eq_ofNat (bs : List Byte) : crcReg bs = BitVec.ofNat 17 (crcNat bs) := by
  rw [← (crcReg_toNat bs).1, BitVec.ofNat_toNat, BitVec.setWidth_eq]

theorem crc16_eq_ofNat (bs : List Byte) : crc16 bs = BitVec.ofNat 16 (crcNat bs) := by
  rw [crc16, ← (crcReg_toNat bs).1, BitVec.ofNat_toNat]

/-- Settles O4: the register is the number of R100 in 17 bits (`crcReg_toNat`), and the answer is its low 16. -/
theorem crc16IsShiftRegister : Obligations.Crc16IsShiftRegister := by
  intro bs s hb
  refine ⟨opselIs_of_encode rfl, (crcReg_toNat bs).2, ?_⟩
  rw [exec_crc16 hb, crcReg_eq_ofNat, crc16_eq_ofNat]

/-- A round with bit 15 clear does not overflow: it only shifts. -/
theorem crcShift_of_bit15 {c : BitVec 17} (h : c.getLsbD 15 = false) : crcShift c = c <<< 1 := by
  have hclear : (c <<< 1).getLsbD 16 = false := by simpa using h
  rw [crcShift, hclear, if_neg Bool.false_ne_true]

/-- Rounds that bring only clear bits to bit 15 are one long shift. -/
theorem repeat_crcShift_eq_shiftLeft {c : BitVec 17} {n : Nat} (h : ∀ i, i < n → c.getLsbD (15 - i) = false) :
    Nat.repeat crcShift n c = c <<< n := by
  induction n with
  | zero => exact (BitVec.shiftLeft_zero c).symm
  | succ n ih =>
    have hbit15 : (c <<< n).getLsbD 15 = false := by
      rw [BitVec.getLsbD_shiftLeft, h n n.lt_succ_self, Bool.and_false]
    rw [Nat.repeat, ih fun i hi => h i (hi.trans n.lt_succ_self), crcShift_of_bit15 hbit15, ← BitVec.shiftLeft_add]

/-- The eight rounds move a byte from the low half of the register to the high half. -/
theorem repeat_crcShift_byte (b : Byte) : Nat.repeat crcShift 8 (b.setWidth 17) = b.setWidth 17 <<< 8 := by
  refine repeat_crcShift_eq_shiftLeft fun i hi => ?_
  rw [BitVec.getLsbD_setWidth, BitVec.getLsbD_of_ge b _ (by omega), Bool.and_false]

/-- The byte in bits 15 to 8 of the register, read next, cancels them. -/
theorem xor_highByte {r : BitVec 17} (h : r.getLsbD 16 = false) :
    r ^^^ ((r.extractLsb' 8 8).setWidth 17 <<< 8) = (r.extractLsb' 0 8).setWidth 17 := by
  refine BitVec.eq_of_getLsbD_eq fun i hi => ?_
  obtain hlow | ⟨h8, h16⟩ | rfl : i < 8 ∨ 8 ≤ i ∧ i < 16 ∨ i = 16 := by omega
  · simp [hlow, hi]
  · have hplace : 8 + (i - 8) = i := by omega
    have hbyte : i - 8 < 8 := by omega
    simp [hplace, hbyte, h8.not_gt, hi]
  · rw [BitVec.getLsbD_xor, h]
    simp

/-- The high byte of the register, read next, leaves the low byte in bits 15 to 8. -/
theorem crcByte_highByte {r : BitVec 17} (h : r.getLsbD 16 = false) :
    crcByte r (r.extractLsb' 8 8) = (r.extractLsb' 0 8).setWidth 17 <<< 8 := by
  rw [crcByte, xor_highByte h, repeat_crcShift_byte]

/-- A register that holds the next byte in bits 15 to 8 and nothing else becomes 0. -/
theorem crcByte_self (b : Byte) : crcByte (b.setWidth 17 <<< 8) b = 0 := by
  rw [crcByte, BitVec.xor_self]
  rfl

theorem crcReg_append (a b : List Byte) : crcReg (a ++ b) = b.foldl crcByte (crcReg a) := List.foldl_append

/-- R103: the checksum behind its sequence, high byte first, takes the register back to 0. -/
theorem crcReg_append_checksum (bs : List Byte) :
    crcReg (bs ++ [(crc16 bs).extractLsb' 8 8, (crc16 bs).extractLsb' 0 8]) = 0 := by
  have hhigh : (crc16 bs).extractLsb' 8 8 = (crcReg bs).extractLsb' 8 8 := BitVec.extractLsb'_setWidth_of_le (by decide)
  have hlow : (crc16 bs).extractLsb' 0 8 = (crcReg bs).extractLsb' 0 8 := BitVec.extractLsb'_setWidth_of_le (by decide)
  rw [crcReg_append, hhigh, hlow, List.foldl_cons, crcByte_highByte (crcReg_bit16 bs), List.foldl_cons, crcByte_self,
    List.foldl_nil]

theorem crc16_append_checksum (bs : List Byte) :
    crc16 (bs ++ [(crc16 bs).extractLsb' 8 8, (crc16 bs).extractLsb' 0 8]) = 0 := by
  rw [crc16, crcReg_append_checksum]
  rfl

/-- The sequence of the examples of R100 and R103. -/
def nineDigits : List Byte := [0x31, 0x32, 0x33, 0x34, 0x35, 0x36, 0x37, 0x38, 0x39]

theorem crcReg_nineDigits : crcReg nineDigits = 0x31C3 := by
  simp [crcReg, nineDigits, crcByte, crcShift, Nat.repeat]

theorem crc16_nineDigits : crc16 nineDigits = 0x31C3 := by
  rw [crc16, crcReg_nineDigits]
  rfl

theorem crc16_nineDigits_highFirst : crc16 (nineDigits ++ [0x31, 0xC3]) = 0 := by
  have hresidue := crc16_append_checksum nineDigits
  rwa [crc16_nineDigits] at hresidue

theorem crc16_nineDigits_lowFirst : crc16 (nineDigits ++ [0xC3, 0x31]) = 0xBAFE := by
  rw [crc16, crcReg_append, crcReg_nineDigits]
  simp [crcByte, crcShift, Nat.repeat]

/-- Settles O5: high byte first, each checksum byte cancels what is left of the register; the digits evaluate. -/
theorem crc16ResidueByteOrder : Obligations.Crc16ResidueByteOrder := by
  refine ⟨fun bs s hb => ?_, fun s hb => ?_⟩
  · exact ⟨_, _, crc16 bs, exec_crc16 hb, rfl, exec_crc16 hb, congrArg Result.half (crc16_append_checksum bs)⟩
  · exact ⟨_, _, exec_crc16 hb, congrArg Result.half crc16_nineDigits_highFirst, exec_crc16 hb,
      congrArg Result.half crc16_nineDigits_lowFirst⟩

end Sys2Proof.Machine
end

section
/-! Building a frame (43_framing.md R110, R111, R124). -/

namespace Sys2Proof.Machine

theorem halfBytes_eq (v : Half) : halfBytes v = [BitVec.ofNat 8 v.toNat, BitVec.ofNat 8 (v.toNat / 256)] := by
  have hlow : v.extractLsb' 0 8 = BitVec.ofNat 8 v.toNat := by apply BitVec.eq_of_toNat_eq; simp
  have hhigh : v.extractLsb' 8 8 = BitVec.ofNat 8 (v.toNat / 256) := by
    apply BitVec.eq_of_toNat_eq; simp [Nat.shiftRight_eq_div_pow]
  rw [halfBytes, hlow, hhigh]

/-- The checksum as it follows the payload (R110): low byte first. -/
theorem halfBytes_crc16 (cmd : List Byte) :
    halfBytes (crc16 cmd) = [BitVec.ofNat 8 (crcNat cmd), BitVec.ofNat 8 (crcNat cmd / 256)] := by
  have hnat : (crc16 cmd).toNat = crcNat cmd := by
    rw [crc16_eq_ofNat, BitVec.toNat_ofNat, Nat.mod_eq_of_lt (crcReg_toNat cmd).2]
  rw [halfBytes_eq, hnat]

/-- The first checksum byte of the frame of `cmd`: it meets the key behind the payload (R110). -/
def frameCk0 (c : Config) (cmd : List Byte) : Byte := BitVec.ofNat 8 (crcNat cmd) ^^^ byteAt c.key (cmd.length % 16)

/-- The second checksum byte of the frame of `cmd`, one key position on. -/
def frameCk1 (c : Config) (cmd : List Byte) : Byte :=
  BitVec.ofNat 8 (crcNat cmd / 256) ^^^ byteAt c.key ((cmd.length + 1) % 16)

/-- The frame of R110 in the form of R61: header, payload under the key, checksum under the key that follows, tail. -/
theorem frameBytes_eq_wireFrame (c : Config) (cmd : List Byte) :
    frameBytes c cmd = wireFrame (obfBytes c.key 0 cmd) (frameCk0 c cmd) (frameCk1 c cmd) := by
  have hbody : obfBytes c.key 0 (frameBody cmd) = obfBytes c.key 0 cmd ++ [frameCk0 c cmd, frameCk1 c cmd] := by
    simp [frameBody, obfBytes_append, halfBytes_crc16, obfBytes, frameCk0, frameCk1]
  rw [frameBytes, wireFrame, hbody, obfBytes_length]
  simp [magicHead, magicTail, rsvdByte]

/-- `FRAME.BUILD` of a payload that the length byte can say (R110). -/
theorem exec_frameBuild {cmd : List Byte} {s : State} (hb : s.busy = false) (hl : cmd.length ≤ 255) :
    exec (.frameBuild cmd) s =
      .next { s with len := BitVec.ofNat 8 cmd.length, crc := crcReg cmd, ki := BitVec.ofNat 4 (cmd.length + 2),
                     err := ⟨0, 0⟩, out := .bytes (frameBytes s.cfg cmd) } := by
  have hindex : obfIndex 0 (frameBody cmd) = BitVec.ofNat 4 (cmd.length + 2) := by
    simp [obfIndex_eq, frameBody, halfBytes]
  rw [exec, execFrameBuild, issue_idle hb, State.opFrameBuild, State.frameBuild, if_neg (by omega), map_ok, commit_ok,
    hindex, State.succeed, ErrReg.ok, ← hb]

/-- `FRAME.BUILD` of a longer one (R110). -/
theorem exec_frameBuild_tooLong {cmd : List Byte} {s : State} (hb : s.busy = false) (hl : 255 < cmd.length) :
    exec (.frameBuild cmd) s = .next (s.failed 5 1 .tooLong) := by
  rw [exec, execFrameBuild, issue_idle hb, State.opFrameBuild, State.frameBuild, if_pos hl, map_error, commit_error,
    busy_raise hb]
  rfl

/-- Settles O6: the frame in the form of R61 (`frameBytes_eq_wireFrame`), with the register of R100 as its number. -/
theorem frameBuildLayout : Obligations.FrameBuildLayout := by
  intro cmd s hb
  refine ⟨opselIs_of_encode rfl, fun hl => ?_, exec_frameBuild_tooLong hb⟩
  refine ⟨obfBytes s.cfg.key 0 cmd, frameCk0 s.cfg cmd, frameCk1 s.cfg cmd, obfBytes_xorsKey s.cfg cmd, rfl, rfl, ?_, ?_⟩
  · simp [wireFrame]
  · rw [exec_frameBuild hb hl, frameBytes_eq_wireFrame, crcReg_eq_ofNat]

end Sys2Proof.Machine
end

section
/-! Taking a frame apart that stands in `RXQ` (43_framing.md R113 to R115, R121, R123): `FRAME.PARSE` and `XCV.RECV` hand the
bytes to the sequencer at its start, and what it does with a whole frame, a bad header or a bad tail is said by `feed_frame`,
`feed_badHeader` and `feed_badFrame`. -/

namespace Sys2Proof.Machine

/-- The block at the start of a plain reception (R116), one whose payload is the answer. -/
abbrev State.listening (s : State) : State := s.started.startParse .ret

theorem exec_frameParse {s : State} (hb : s.busy = false) :
    exec .frameParse s = .next (feed s.rxq s.listening) := by
  rw [exec, execFrameParse, runSequence, issue_idle hb]
  rfl

/-- `XCV.RECV` is `FRAME.PARSE`, its errors unchanged (47_host_sequences.md R232). -/
theorem exec_xcvRecv (s : State) : exec .xcvRecv s = exec .frameParse s := rfl

/-- A plain reception that ends with a payload answers it. -/
theorem feed_react_ok (q p : List Byte) {s : State} (h : s.rxs = .idle) :
    feed q (s.react .ret (.ok p)) = { s with seq := .ret, err := ⟨0, 0⟩, busy := false, out := .bytes p, rxq := q } :=
  feed_idle (s := s.react .ret (.ok p)) h q

/-- A plain reception that ends with an error raises it. -/
theorem feed_react_error (q : List Byte) (c : Cause) (s : State) :
    feed q (s.react .ret (.error c)) =
      { s with seq := .ret, err := c.errReg, rxs := .idle, cnt := 0, busy := false, out := .error c, rxq := q } :=
  feed_idle (s := s.react .ret (.error c)) rfl q

/-- A whole frame with any checksum bytes (R113, R115). -/
theorem listening_frame {p : List Byte} {s : State} (hs : s.Buffers) (hp : p.length ≤ 255) (k0 k1 : Byte)
    (rest : List Byte) :
    feed (wireFrame p k0 k1 ++ rest) s.listening =
      { s with hb := [0xAB, 0xCD, BitVec.ofNat 8 p.length, 0x00], len := BitVec.ofNat 8 p.length,
               rxb := p ++ s.rxb.drop p.length, tb := [k0, k1, 0xDC, 0xBA], ki := BitVec.ofNat 4 p.length, err := ⟨0, 0⟩,
               rxs := .idle, cnt := 0, busy := false, seq := .ret, rxq := rest,
               out := .bytes (obfBytes s.cfg.key 0 p) } := by
  rw [feed_frame (s := s.listening) rfl rfl hs hp]
  exact feed_react_ok rest _ rfl

/-- A bad header (R114, R121). -/
theorem listening_badHeader {b0 b1 b2 b3 : Byte} {i : BitVec 8} {c : Cause} {s : State} (hs : s.Buffers)
    (hf : headerFault b0 b1 b3 = some (i, c)) (rest : List Byte) :
    feed ([b0, b1, b2, b3] ++ rest) s.listening =
      { s with hb := [b0, b1, b2, b3], err := ⟨1, i⟩, rxs := .idle, cnt := 0, busy := false, seq := .ret, rxq := rest,
               out := .error c } := by
  rw [feed_badHeader (s := s.listening) rfl rfl hs.1 hf, ← (headerCheck_bad (b2 := b2) hf).2]
  exact feed_react_error rest c _

/-- A bad tail (R113, R114, R121). -/
theorem listening_badFrame {p : List Byte} {t0 t1 t2 t3 : Byte} {s : State} (hs : s.Buffers) (hp : p.length ≤ 255)
    (hf : t2 ≠ 0xDC ∨ t3 ≠ 0xBA) (rest : List Byte) :
    feed ([0xAB, 0xCD, BitVec.ofNat 8 p.length, 0x00] ++ p ++ [t0, t1, t2, t3] ++ rest) s.listening =
      { s with hb := [0xAB, 0xCD, BitVec.ofNat 8 p.length, 0x00], len := BitVec.ofNat 8 p.length,
               rxb := p ++ s.rxb.drop p.length, tb := [t0, t1, t2, t3], err := ⟨1, 3⟩, rxs := .idle, cnt := 0,
               busy := false, seq := .ret, rxq := rest, out := .error .badTail } := by
  rw [feed_badFrame (s := s.listening) rfl rfl hs hp hf]
  exact feed_react_error rest .badTail _

/-- `FRAME.PARSE` and `XCV.RECV` where it is known what the sequencer makes of `RXQ`. -/
theorem parse_of_listening {s t : State} (hb : s.busy = false) (h : feed s.rxq s.listening = { t with busy := false })
    (ht : t.busy = false) : exec .frameParse s = .next t ∧ exec .xcvRecv s = .next t := by
  have hparse : exec .frameParse s = .next t := by rw [exec_frameParse hb, h, ← ht]
  exact ⟨hparse, (exec_xcvRecv s).trans hparse⟩

/-- Settles O7: whatever the two checksum bytes are, the sequencer takes the frame (`listening_frame`). -/
theorem frameParseTakesFrame : Obligations.FrameParseTakesFrame := by
  intro p rest k0 k1 s hb hs hp hq
  refine ⟨_, _, obfBytes_xorsKey s.cfg p, rfl, parse_of_listening hb ?_ hb⟩
  rw [hq, listening_frame hs hp]

/-- Settles O8: the four bytes end the reception, the magic checked first (`listening_badHeader`). -/
theorem frameParseRefusesHeader : Obligations.FrameParseRefusesHeader := by
  intro b0 b1 b2 b3 rest i c s hb hs hq hf
  refine ⟨_, rfl, parse_of_listening hb ?_ hb⟩
  rw [hq, listening_badHeader hs hf]

/-- Settles O9: the bytes up to the trailer are taken as of a good frame, and its last two end it (`listening_badFrame`). -/
theorem frameParseRefusesTail : Obligations.FrameParseRefusesTail := by
  intro p rest t0 t1 t2 t3 s hb hs hp hq hf
  refine ⟨_, rfl, parse_of_listening hb ?_ hb⟩
  rw [hq, listening_badFrame hs hp hf]

/-- Settles O13: what `FRAME.BUILD` answers is a frame around the payload under the key (`frameBytes_eq_wireFrame`), which
`FRAME.PARSE` takes (`frameParseTakesFrame`) and puts under the key once more (`obfBytes_obfBytes`). -/
theorem frameRoundTrip : Obligations.FrameRoundTrip := by
  intro cmd rest s hb hs hl
  obtain ⟨t, hbuild, hout, hcfg, hbusy, hbuffers⟩ : ∃ t, exec (.frameBuild cmd) s = .next t ∧
      t.out = .bytes (frameBytes s.cfg cmd) ∧ t.cfg = s.cfg ∧ t.busy = false ∧ t.Buffers :=
    ⟨_, exec_frameBuild hb hl, rfl, rfl, hb, hs⟩
  have hpayload : (obfBytes s.cfg.key 0 cmd).length ≤ 255 := by rwa [obfBytes_length]
  obtain ⟨o, u, ho, hu, hparse, -⟩ := frameParseTakesFrame (obfBytes s.cfg.key 0 cmd) rest (frameCk0 s.cfg cmd)
    (frameCk1 s.cfg cmd) { t with rxq := frameBytes s.cfg cmd ++ rest } hbusy hbuffers hpayload
    (by rw [frameBytes_eq_wireFrame])
  have hcmd : o = cmd := by rw [xorsKey_eq ho, hcfg, obfBytes_obfBytes]
  subst hu hcmd
  exact ⟨t, frameBytes s.cfg o, _, hbuild, hout, hparse, rfl, rfl, rfl⟩

end Sys2Proof.Machine
end

section
/-! Steps of a reception (43_framing.md R116 to R120): what one byte does in each stage and what a timeout does, and from that
what a step does and what it leaves of the host's program (47_host_sequences.md R246, log entry 35). -/

namespace Sys2Proof.Machine

/-! ### One byte in each stage (R117 to R119) -/

theorem rxByte_of_hdr {s : State} (hr : s.rxs = .hdr) (b : Byte) : s.rxByte b = s.rxHeader b := by rw [State.rxByte, hr]

theorem rxByte_of_pay {s : State} (hr : s.rxs = .pay) (b : Byte) : s.rxByte b = s.rxPayload b := by rw [State.rxByte, hr]

theorem rxByte_of_trl {s : State} (hr : s.rxs = .trl) (b : Byte) : s.rxByte b = s.rxTrailer b := by rw [State.rxByte, hr]

theorem rxByte_header {s : State} (b : Byte) (hr : s.rxs = .hdr) (hc : s.cnt.toNat < 3) :
    s.rxByte b = ({ s with hb := s.hb.set s.cnt.toNat b, cnt := s.cnt + 1 }, none) :=
  (rxByte_of_hdr hr b).trans (if_pos hc)

theorem rxByte_payload {s : State} (b : Byte) (hr : s.rxs = .pay) (hc : s.cnt.toNat + 1 < s.len.toNat) :
    s.rxByte b = ({ s with rxb := s.rxb.set s.cnt.toNat b, cnt := s.cnt + 1 }, none) :=
  (rxByte_of_pay hr b).trans (if_pos hc)

theorem rxByte_payloadEnd {s : State} (b : Byte) (hr : s.rxs = .pay) (hc : s.cnt.toNat + 1 = s.len.toNat) :
    s.rxByte b = ({ s with rxb := s.rxb.set s.cnt.toNat b, cnt := 0, rxs := .trl }, none) :=
  (rxByte_of_pay hr b).trans (if_neg hc.not_lt)

theorem rxByte_trailer {s : State} (b : Byte) (hr : s.rxs = .trl) (hc : s.cnt.toNat < 3) :
    s.rxByte b = ({ s with tb := s.tb.set s.cnt.toNat b, cnt := s.cnt + 1 }, none) :=
  (rxByte_of_trl hr b).trans (if_pos hc)

/-- The fourth byte completes the buffer of a header or a trailer. -/
theorem set_three_eq {l : List Byte} (h : l.length = 4) (b : Byte) :
    l.set 3 b = [byteAt l 0, byteAt l 1, byteAt l 2, b] := by
  obtain ⟨x0, x1, x2, x3, rfl⟩ := list_length_four h
  rfl

theorem headerFault_eq_none_iff (b0 b1 b3 : Byte) :
    headerFault b0 b1 b3 = none ↔ b0 = 0xAB ∧ b1 = 0xCD ∧ b3 = 0x00 := by
  unfold headerFault
  split_ifs <;> grind

/-- The last byte of a good header (R117). -/
theorem rxByte_headerEnd {s : State} {b : Byte} (hr : s.rxs = .hdr) (hc : s.cnt = 3) (hb : s.hb.length = 4)
    (hf : headerFault (byteAt s.hb 0) (byteAt s.hb 1) b = none) :
    s.rxByte b = ({ s with hb := s.hb.set 3 b, len := byteAt s.hb 2, cnt := 0,
                           rxs := if byteAt s.hb 2 = 0 then .trl else .pay }, none) := by
  obtain ⟨h0, h1, h3⟩ := (headerFault_eq_none_iff _ _ _).mp hf
  have hcheck : headerCheck (s.hb.set 3 b) = .ok (byteAt s.hb 2) := by
    rw [set_three_eq hb, h0, h1, h3, headerCheck_good]
  simp [rxByte_of_hdr hr, State.rxHeader, hc, hcheck]

/-- The last byte of a bad header (R117, R114). -/
theorem rxByte_badHeaderEnd {s : State} {b : Byte} {i : BitVec 8} {c : Cause} (hr : s.rxs = .hdr) (hc : s.cnt = 3)
    (hb : s.hb.length = 4) (hf : headerFault (byteAt s.hb 0) (byteAt s.hb 1) b = some (i, c)) :
    s.rxByte b = ({ s with hb := s.hb.set 3 b, err := ⟨1, i⟩, rxs := .idle, cnt := 0, busy := false },
      some (.error c)) := by
  obtain ⟨hcheck, herr⟩ := headerCheck_bad (b2 := byteAt s.hb 2) hf
  rw [← set_three_eq hb] at hcheck
  simp [rxByte_of_hdr hr, State.rxHeader, hc, hcheck, State.finish, herr]

/-- The last byte of a good trailer (R119). -/
theorem rxByte_trailerEnd {s : State} {b : Byte} (hr : s.rxs = .trl) (hc : s.cnt = 3) (hb : s.Buffers)
    (h2 : byteAt s.tb 2 = 0xDC) (h3 : b = 0xBA) :
    s.rxByte b = ({ s with tb := s.tb.set 3 b, ki := BitVec.ofNat 4 s.len.toNat, err := ⟨0, 0⟩, rxs := .idle, cnt := 0,
                           busy := false }, some (.ok (obfBytes s.cfg.key 0 (s.rxb.take s.len.toNat)))) := by
  obtain ⟨-, htb, hrxb⟩ := hb
  have hgood : trailerGood (s.tb.set 3 b) = true := by rw [set_three_eq htb, h2, h3]; rfl
  have hlen : min s.len.toNat 255 = s.len.toNat := by have := s.len.isLt; omega
  simp [rxByte_of_trl hr, State.rxTrailer, hc, hgood, State.obf, State.finish, obfIndex_eq, hrxb, hlen, ErrReg.ok]

/-- The last byte of a bad trailer (R119). -/
theorem rxByte_badTrailerEnd {s : State} {b : Byte} (hr : s.rxs = .trl) (hc : s.cnt = 3) (hb : s.tb.length = 4)
    (hf : byteAt s.tb 2 ≠ 0xDC ∨ b ≠ 0xBA) :
    s.rxByte b = ({ s with tb := s.tb.set 3 b, err := ⟨1, 3⟩, rxs := .idle, cnt := 0, busy := false },
      some (.error .badTail)) := by
  have hbad : trailerGood (s.tb.set 3 b) = false := by
    rw [set_three_eq hb]
    simpa [trailerGood, byteAt, or_iff_not_imp_left] using hf
  simp [rxByte_of_trl hr, State.rxTrailer, hc, hbad, State.finish, Cause.errReg, Cause.kind, Cause.info]

/-! ### What a reception makes of the inputs to come -/

/-- `s` with other bytes in `RXQ` and other inputs to come. -/
def State.withQueues (s : State) (x : List Byte) (l : List Input) : State := { s with rxq := x, inq := l }

/-- A byte neither reads nor writes `RXQ` or the inputs to come. -/
theorem rxByte_withQueues (s : State) (b : Byte) (x : List Byte) (l : List Input) :
    (s.withQueues x l).rxByte b = ((s.rxByte b).1.withQueues x l, (s.rxByte b).2) := by
  simp only [State.rxByte, State.rxHeader, State.rxPayload, State.rxTrailer]
  cases hr : s.rxs with
  | idle => simp only [State.withQueues, hr]
  | hdr =>
    simp only [State.withQueues, hr]
    split
    · rfl
    · split <;> rfl
  | pay =>
    simp only [State.withQueues, hr]
    split <;> rfl
  | trl =>
    simp only [State.withQueues, hr]
    split
    · rfl
    · split <;> rfl

theorem react_ret_withQueues (s : State) (e : ParseEnd) (x : List Byte) (l : List Input) :
    (s.withQueues x l).react .ret e = (s.react .ret e).withQueues x l := by
  cases e <;> rfl

theorem react_ret_seq (s : State) (e : ParseEnd) : (s.react .ret e).seq = .ret := by cases e <;> rfl

/-- Bytes that come in overwrite `RXQ` without reading it, and leave the inputs to come. -/
theorem feed_withQueues (q x : List Byte) (l : List Input) {s : State} (hs : s.seq = .ret) :
    feed q (s.withQueues x l) = { feed q s with inq := l } := by
  induction q generalizing s with
  | nil => rfl
  | cons b q ih =>
    by_cases hi : s.rxs = .idle
    · rw [feed_idle hi, feed_idle (s := s.withQueues x l) hi]
      rfl
    · have hseq := rxByte_seq s b
      have hbyte := rxByte_withQueues s b x l
      rcases hb : s.rxByte b with ⟨t, _ | e⟩
      all_goals rw [hb] at hseq hbyte
      · rw [feed_cons_none hi hb, feed_cons_none (s := s.withQueues x l) hi hbyte, ih (hseq.trans hs)]
      · have ht : t.seq = .ret := hseq.trans hs
        rw [feed_cons_some hi hb, feed_cons_some (s := s.withQueues x l) hi hbyte, ht,
          show (t.withQueues x l).seq = .ret from ht, react_ret_withQueues, ih (react_ret_seq t e)]

/-- What is left of the program once the block has come to `s` (R246, log entry 35): where a reception has ended by raising,
the inputs of `afterRaise`. -/
def State.programLeft (s : State) (more : List Input) : List Input :=
  match s.rxs, s.out with
  | .idle, .error c => afterRaise c more
  | _, _ => more

theorem programLeft_error {s : State} {c : Cause} (hr : s.rxs = .idle) (ho : s.out = .error c) (more : List Input) :
    s.programLeft more = afterRaise c more := by
  rw [State.programLeft, hr, ho]

theorem programLeft_quiet {s : State} (h : ∀ c, s.rxs = .idle → s.out ≠ .error c) (more : List Input) :
    s.programLeft more = more := by
  unfold State.programLeft
  split
  · next c hr ho => exact absurd ho (h c hr)
  · rfl

theorem programLeft_waiting {s : State} (h : s.rxs ≠ .idle) (more : List Input) : s.programLeft more = more :=
  programLeft_quiet (fun _ hr => absurd hr h) more

theorem programLeft_bytes {s : State} {p : List Byte} (h : s.out = .bytes p) (more : List Input) :
    s.programLeft more = more :=
  programLeft_quiet (fun c _ ho => by rw [h] at ho; cases ho) more

/-- What the environment does stays (R246). -/
theorem programLeft_cons (s : State) {inp : Input} (h : inProgram inp = false) (more : List Input) :
    s.programLeft (inp :: more) = inp :: s.programLeft more := by
  unfold State.programLeft
  split
  · next c _ _ => exact afterRaise_append c (pre := [inp]) (by simpa using h) more
  · rfl

/-- An input that starts a reception or reaches one that waits. -/
def ReachesReception (inp : Input) (s : State) : Prop :=
  issuesOp inp = true ∧ s.busy = false ∨ issuesOp inp = false ∧ s.rxs ≠ .idle

/-- The host behind such an input: an operation has raised exactly if the block is idle with a cause at the answer port. -/
theorem raisedIn_reception {inp : Input} {s : State} (h : ReachesReception inp s) (t : State) (c : Cause) :
    raisedIn inp s t = some c ↔ t.rxs = .idle ∧ t.out = .error c := by
  rw [raisedIn_eq_some_iff, RaisedBy, ← issuesOp_iff]
  rcases h with ⟨hop, hb⟩ | ⟨hop, hr⟩
  · simp only [hop, hb]
    tauto
  · simp only [hop]
    tauto

theorem hostRuns_reception {inp : Input} {s t : State} (h : ReachesReception inp s) (ht : t.inq = s.inq) :
    hostRuns inp s (.next t) = .next { t with inq := t.programLeft s.inq } := by
  have hraised := raisedIn_reception h t
  cases hc : raisedIn inp s t with
  | some c =>
    obtain ⟨hr, ho⟩ := (hraised c).mp hc
    rw [hostRuns_raised ht hc, programLeft_error hr ho]
  | none =>
    have hquiet : t.programLeft s.inq = s.inq :=
      programLeft_quiet (fun c hr ho => by rw [(hraised c).mpr ⟨hr, ho⟩] at hc; cases hc) _
    rw [hostRuns_quiet ht hc, hquiet, ← ht]

/-! ### Steps -/

/-- Bytes reach a plain reception that waits (R12). -/
theorem step_line_waiting {s : State} {bs : List Byte} {more : List Input} (hi : s.inq = .line bs :: more)
    (hr : s.rxs ≠ .idle) (hq : s.rxq = []) (hs : s.seq = .ret) :
    step s = .next { feed bs s with inq := (feed bs s).programLeft more } := by
  have hdeliver : ({ s with inq := more } : State).deliver bs = { feed bs s with inq := more } := by
    rw [State.deliver, hq]
    exact feed_withQueues bs [] more hs
  rw [step_cons hi, runInput_line, hdeliver]
  exact hostRuns_reception (.inr ⟨rfl, hr⟩) rfl

theorem took_rxs {s t : State} {b : Byte} (h : Took s b t) : t.rxs ≠ .idle := by
  cases h with
  | header hr | payload hr | trailer hr => simp [hr]
  | headerEnd hr l =>
    show (if l = 0 then RxStage.trl else .pay) ≠ .idle
    split <;> simp
  | payloadEnd => simp

/-- A byte leaves `RXQ` and the host sequence as they are. -/
theorem rxByte_rest {s t : State} {b : Byte} {e : Option ParseEnd} (h : s.rxByte b = (t, e)) :
    t.rxq = s.rxq ∧ t.seq = s.seq := by
  have hrxq : (s.rxByte b).1.rxq = s.rxq := by rw [rxByte_frame]
  have hseq := rxByte_seq s b
  rw [h] at hrxq hseq
  exact ⟨hrxq, hseq⟩

/-- A byte that does not end the reception. -/
theorem step_byte_none {s t : State} {b : Byte} {more : List Input} (hi : s.inq = .line [b] :: more)
    (hr : s.rxs ≠ .idle) (hq : s.rxq = []) (hs : s.seq = .ret) (hb : s.rxByte b = (t, none)) :
    step s = .next { t with inq := more } := by
  have hwaits := took_rxs (rxByte_none hr hb)
  have hrxq := (rxByte_rest hb).1
  rw [step_line_waiting hi hr hq hs, feed_cons_none hr hb, feed_nil, programLeft_waiting (s := { t with rxq := [] }) hwaits,
    hrxq, hq]

/-- A byte that ends it with a payload. -/
theorem step_byte_ok {s t : State} {b : Byte} {p : List Byte} {more : List Input} (hi : s.inq = .line [b] :: more)
    (hr : s.rxs ≠ .idle) (hq : s.rxq = []) (hs : s.seq = .ret) (hb : s.rxByte b = (t, some (.ok p))) :
    step s = .next { t with inq := more, err := ⟨0, 0⟩, out := .bytes p } := by
  obtain ⟨hrxq, hseq⟩ := rxByte_rest hb
  obtain ⟨-, hidle, -, hbusy⟩ := rxByte_some hb
  rw [hq] at hrxq
  rw [hs] at hseq
  rw [step_line_waiting hi hr hq hs, feed_cons_some hr hb, hseq, feed_react_ok [] p hidle, programLeft_bytes rfl, hrxq,
    hbusy]

/-- A byte that ends it with an error. -/
theorem step_byte_error {s t : State} {b : Byte} {c : Cause} {more : List Input} (hi : s.inq = .line [b] :: more)
    (hr : s.rxs ≠ .idle) (hq : s.rxq = []) (hs : s.seq = .ret) (hb : s.rxByte b = (t, some (.error c))) :
    step s = .next { t with inq := afterRaise c more, err := c.errReg, out := .error c } := by
  obtain ⟨hrxq, hseq⟩ := rxByte_rest hb
  obtain ⟨-, hidle, hcnt, hbusy⟩ := rxByte_some hb
  rw [hq] at hrxq
  rw [hs] at hseq
  rw [step_line_waiting hi hr hq hs, feed_cons_some hr hb, hseq, feed_react_error, programLeft_error rfl rfl, hrxq, hidle,
    hcnt, hbusy]

/-- `FRAME.PARSE` on an idle block that has received nothing waits for a header (R116). -/
theorem exec_frameParse_empty {s : State} (hb : s.busy = false) (hq : s.rxq = []) :
    exec .frameParse s = .next { s with busy := true, cnt := 0, rxs := .hdr, seq := .ret } := by
  rw [exec_frameParse hb, hq, feed_nil, ← hq]
  rfl

/-- Settles O10: each clause is the byte's rule (`rxByte_header` to `rxByte_badTrailerEnd`) carried through a step. -/
theorem receptionStages : Obligations.ReceptionStages := by
  refine ⟨fun s => exec_frameParse_empty, fun b more s hi hq hs hbuf => ?_⟩
  have waits (hr : s.rxs ≠ .idle) {t : State} := step_byte_none (t := t) hi hr hq hs
  have answers (hr : s.rxs ≠ .idle) {t : State} {p : List Byte} := step_byte_ok (t := t) (p := p) hi hr hq hs
  have raises (hr : s.rxs ≠ .idle) {t : State} {c : Cause} := step_byte_error (t := t) (c := c) hi hr hq hs
  have hhdr (hr : s.rxs = .hdr) : s.rxs ≠ .idle := by simp [hr]
  have hpay (hr : s.rxs = .pay) : s.rxs ≠ .idle := by simp [hr]
  have htrl (hr : s.rxs = .trl) : s.rxs ≠ .idle := by simp [hr]
  refine ⟨?_, ?_, ?_, ?_, ?_, ?_, ?_, ?_⟩
  · exact fun hr hc => waits (hhdr hr) (rxByte_header b hr hc)
  · intro hr hc i c hf
    rw [raises (hhdr hr) (rxByte_badHeaderEnd hr hc hbuf.1 hf), (headerCheck_bad (b2 := 0) hf).2]
  · exact fun hr hc hf => waits (hhdr hr) (rxByte_headerEnd hr hc hbuf.1 hf)
  · exact fun hr hc => waits (hpay hr) (rxByte_payload b hr hc)
  · exact fun hr hc => waits (hpay hr) (rxByte_payloadEnd b hr hc)
  · exact fun hr hc => waits (htrl hr) (rxByte_trailer b hr hc)
  · exact fun hr hc hf => raises (htrl hr) (rxByte_badTrailerEnd hr hc hbuf.2.1 hf)
  · exact fun hr hc h2 h3 => ⟨_, obfBytes_xorsKey s.cfg _, answers (htrl hr) (rxByte_trailerEnd hr hc hbuf h2 h3)⟩

/-! ### The timeout (R120) -/

theorem timeoutEvent_idle {s : State} (h : s.rxs = .idle) : s.timeoutEvent = s := by
  rw [State.timeoutEvent, h]
  rfl

/-- A timeout raises by the stage of a plain reception; what stands in `RXQ` stays there. -/
theorem timeoutEvent_waiting {s : State} {c : Cause} (hs : s.seq = .ret) (hc : timeoutCause s.rxs = some c) :
    s.timeoutEvent = s.raise c := by
  rw [State.timeoutEvent, hc, hs]
  exact (feed_react_error s.rxq c _).trans (by rw [← hs]; rfl)

theorem timeoutCause_rxs {s : State} {c : Cause} (h : timeoutCause s.rxs = some c) : s.rxs ≠ .idle := by
  intro hr
  rw [hr] at h
  cases h

theorem runInput_timeout (s : State) : runInput .timeout s = .next s.timeoutEvent := rfl

theorem step_timeout_idle {s : State} {more : List Input} (hi : s.inq = .timeout :: more) (hr : s.rxs = .idle) :
    step s = .next { s with inq := more } := by
  have hquiet := raisedIn_eq_none (inp := .timeout) (s := { s with inq := more }) rfl hr
  rw [step_cons hi, runInput_timeout, timeoutEvent_idle (s := { s with inq := more }) hr]
  exact hostRuns_quiet rfl (hquiet _)

theorem step_timeout_waiting {s : State} {c : Cause} {more : List Input} (hi : s.inq = .timeout :: more)
    (hs : s.seq = .ret) (hc : timeoutCause s.rxs = some c) :
    step s = .next { s.raise c with inq := afterRaise c more } := by
  have hreaches : ReachesReception .timeout { s with inq := more } := .inr ⟨rfl, timeoutCause_rxs hc⟩
  rw [step_cons hi, runInput_timeout, timeoutEvent_waiting (s := { s with inq := more }) hs hc]
  exact hostRuns_reception hreaches rfl

/-- Settles O11: by its stage, a timeout raises (`step_timeout_waiting`) or does nothing (`step_timeout_idle`). -/
theorem timeoutEndsReceptionByStage : Obligations.TimeoutEndsReceptionByStage := by
  refine fun more s hi => ⟨step_timeout_idle hi, fun hs st i c hst hr => ?_⟩
  have hstage : timeoutCause st = some c ∧ c.errReg = ⟨3, i⟩ := by
    simp only [List.mem_cons, List.not_mem_nil, or_false, Prod.mk.injEq] at hst
    rcases hst with ⟨rfl, rfl, rfl⟩ | ⟨rfl, rfl, rfl⟩ | ⟨rfl, rfl, rfl⟩ <;> exact ⟨rfl, rfl⟩
  obtain ⟨hc, herr⟩ := hstage
  rw [step_timeout_waiting hi hs (hr ▸ hc), ← herr]
  rfl

end Sys2Proof.Machine
end

section
/-! The sequencer and the function view of `FRAME.PARSE` (43_framing.md R113, R122). That they agree comes from three facts:
a plain reception makes of several deliveries what it makes of one (`deliver_append`); every sequence of bytes is cut short
in some stage or holds what ends a reception (`stream_of_bytes`); and of each of these the sequencer and the function make the same
(`feed_listening_ended`). -/

namespace Sys2Proof.Machine

/-! ### Several deliveries are one -/

theorem feed_seq (q : List Byte) {s : State} (hs : s.seq = .ret) : (feed q s).seq = .ret := by
  refine feed_induct (P := fun u => u.seq = .ret) (fun _ _ h => h) ?_ ?_ q s hs
  · exact fun u b t h _ hb => (rxByte_rest hb).2.trans h
  · intro u b t e h _ hb
    rw [(rxByte_rest hb).2.trans h]
    exact react_ret_seq t e

/-- Bytes that come in two portions: what the first left in `RXQ` is still in front of the second. -/
theorem feed_append (a b : List Byte) {s : State} (hs : s.seq = .ret) :
    feed (a ++ b) s = feed ((feed a s).rxq ++ b) (feed a s) := by
  induction a generalizing s with
  | nil => exact (feed_withQueues b s.rxq s.inq hs).trans (feed_withQueues b [] s.inq hs).symm
  | cons x a ih =>
    by_cases hi : s.rxs = .idle
    · rw [feed_idle hi, feed_idle hi, feed_idle (s := { s with rxq := x :: a }) hi]
    · rcases hb : s.rxByte x with ⟨t, _ | e⟩
      all_goals have ht : t.seq = .ret := (rxByte_rest hb).2.trans hs
      · rw [List.cons_append, feed_cons_none hi hb, feed_cons_none hi hb, ih ht]
      · rw [List.cons_append, feed_cons_some hi hb, feed_cons_some hi hb, ht, ih (react_ret_seq t e)]

theorem deliver_append {s : State} (hs : s.seq = .ret) (a b : List Byte) :
    (s.deliver a).deliver b = s.deliver (a ++ b) := by
  rw [State.deliver, State.deliver, State.deliver, ← List.append_assoc, feed_append (s.rxq ++ a) b hs]

/-- A plain reception, or an idle block: no host sequence goes on when the frame has ended, and while the block waits it has
taken every byte that arrived. -/
structure State.Plain (s : State) : Prop where
  seq : s.seq = .ret
  rxq : s.rxs ≠ .idle → s.rxq = []

theorem feed_plain (q : List Byte) {s : State} (hs : s.seq = .ret) : (feed q s).Plain := ⟨feed_seq q hs, feed_rxq q s⟩

theorem deliver_plain {s : State} (hs : s.Plain) (bs : List Byte) : (s.deliver bs).Plain := feed_plain _ hs.seq

theorem deliver_nil {s : State} (hs : s.Plain) : s.deliver [] = s := by
  rw [State.deliver, List.append_nil]
  by_cases hi : s.rxs = .idle
  · rw [feed_idle hi]
  · rw [hs.rxq hi, feed_nil, ← hs.rxq hi]

/-! ### Deliveries and a timeout, as steps -/

/-- The block at `s` with what the program has left of `more` still to come. -/
def State.facing (s : State) (more : List Input) : State := { s with inq := s.programLeft more }

theorem step_facing_line {s : State} (hs : s.Plain) (bs : List Byte) (more : List Input) :
    step (s.facing (.line bs :: more)) = .next ((s.deliver bs).facing more) := by
  have hinq : (s.facing (.line bs :: more)).inq = .line bs :: s.programLeft more := programLeft_cons s rfl more
  by_cases hi : s.rxs = .idle
  · rw [step_line_idle hinq hi, deliver_idle hi]
    rfl
  · have hfeed : feed bs (s.facing (.line bs :: more)) = { feed bs s with inq := s.programLeft (.line bs :: more) } :=
      feed_withQueues bs s.rxq _ hs.seq
    rw [step_line_waiting hinq hi (hs.rxq hi) hs.seq, hfeed, State.deliver, hs.rxq hi, programLeft_waiting hi more,
      List.nil_append]
    rfl

theorem step_facing_timeout {s : State} (hs : s.Plain) (more : List Input) :
    step (s.facing (.timeout :: more)) = .next (s.timeoutEvent.facing more) := by
  have hinq : (s.facing (.timeout :: more)).inq = .timeout :: s.programLeft more := programLeft_cons s rfl more
  cases hc : timeoutCause s.rxs with
  | none =>
    have hi : s.rxs = .idle := by cases hr : s.rxs <;> rw [hr] at hc <;> first | rfl | cases hc
    rw [step_timeout_idle hinq hi, timeoutEvent_idle hi]
    rfl
  | some c =>
    rw [step_timeout_waiting hinq hs.seq hc, timeoutEvent_waiting hs.seq hc,
      programLeft_waiting (timeoutCause_rxs hc)]
    rfl

theorem run_succ {s t : State} (h : step s = .next t) (k : Nat) :
    Host.Core.run core (k + 1) s = Host.Core.run core k t := by
  have hcore : core.step s = .next t := h
  simp only [Host.Core.run, hcore]

/-- However the bytes are cut into deliveries, deliveries and a timeout do what one delivery and the timeout do. -/
theorem run_facing (chunks : List (List Byte)) (more : List Input) {s : State} (hs : s.Plain) :
    Host.Core.run core (chunks.length + 1) (s.facing (chunks.map Input.line ++ .timeout :: more)) =
      .next ((s.deliver chunks.flatten).timeoutEvent.facing more) := by
  induction chunks generalizing s with
  | nil =>
    rw [List.flatten_nil, deliver_nil hs]
    exact run_succ (step_facing_timeout hs more) 0
  | cons bs chunks ih =>
    rw [List.flatten_cons, ← deliver_append hs.seq, ← ih (deliver_plain hs bs)]
    exact run_succ (step_facing_line hs bs _) _

/-- `FRAME.PARSE` issued as the next input of an idle block. -/
theorem step_frameParse {s : State} {more : List Input} (hb : s.busy = false) (hi : s.inq = encode .frameParse :: more) :
    step s = .next ((feed s.rxq s.listening).facing more) := by
  have hdecode : decode (encode .frameParse) = .ok .frameParse := decode_encode_of_issued rfl
  have hfeed : feed s.rxq ({ s with inq := more } : State).listening = { feed s.rxq s.listening with inq := more } :=
    feed_withQueues (s := s.listening) s.rxq s.rxq more rfl
  have hreaches : ReachesReception (encode .frameParse) { s with inq := more } := .inl ⟨rfl, hb⟩
  rw [step_cons hi, runInput_decoded hdecode, exec_frameParse (s := { s with inq := more }) hb]
  exact (congrArg _ (congrArg _ hfeed)).trans (hostRuns_reception hreaches rfl)

/-! ### A reception cut short -/

/-- How many bytes the stage of a reception still takes (R117 to R119). -/
def State.stageLeft (s : State) : Nat :=
  match s.rxs with
  | .idle => 0
  | .hdr => 4 - s.cnt.toNat
  | .pay => s.len.toNat - s.cnt.toNat
  | .trl => 4 - s.cnt.toNat

theorem stageLeft_idle {s : State} (hr : s.rxs = .idle) : s.stageLeft = 0 := by rw [State.stageLeft, hr]

theorem stageLeft_hdr {s : State} (hr : s.rxs = .hdr) : s.stageLeft = 4 - s.cnt.toNat := by rw [State.stageLeft, hr]

theorem stageLeft_pay {s : State} (hr : s.rxs = .pay) : s.stageLeft = s.len.toNat - s.cnt.toNat := by
  rw [State.stageLeft, hr]

theorem stageLeft_trl {s : State} (hr : s.rxs = .trl) : s.stageLeft = 4 - s.cnt.toNat := by rw [State.stageLeft, hr]

theorem stage_cases (s : State) : s.rxs = .idle ∨ s.rxs = .hdr ∨ s.rxs = .pay ∨ s.rxs = .trl := by
  cases s.rxs <;> simp

/-- A byte that is not the last of its stage is stored and counted. -/
theorem rxByte_stored {s : State} (b : Byte) (h : 1 < s.stageLeft) :
    ∃ hb tb rxb, s.rxByte b = ({ s with hb := hb, tb := tb, rxb := rxb, cnt := s.cnt + 1 }, none) := by
  rcases stage_cases s with hr | hr | hr | hr
  · rw [stageLeft_idle hr] at h; omega
  · rw [stageLeft_hdr hr] at h; exact ⟨_, _, _, rxByte_header b hr (by omega)⟩
  · rw [stageLeft_pay hr] at h; exact ⟨_, _, _, rxByte_payload b hr (by omega)⟩
  · rw [stageLeft_trl hr] at h; exact ⟨_, _, _, rxByte_trailer b hr (by omega)⟩

/-- It is one byte less that the stage still takes. -/
theorem stageLeft_stored {s : State} (h : 1 < s.stageLeft) (hb tb rxb : List Byte) :
    ({ s with hb := hb, tb := tb, rxb := rxb, cnt := s.cnt + 1 } : State).stageLeft = s.stageLeft - 1 := by
  have hlen := s.len.isLt
  rcases stage_cases s with hr | hr | hr | hr
  · rw [stageLeft_idle hr] at h; omega
  · rw [stageLeft_hdr hr] at h
    rw [stageLeft_hdr hr, stageLeft_hdr (by exact hr), cnt_succ_toNat (by omega)]
    omega
  · rw [stageLeft_pay hr] at h
    rw [stageLeft_pay hr, stageLeft_pay (by exact hr)]
    simp only [cnt_succ_toNat (c := s.cnt) (by omega)]
    omega
  · rw [stageLeft_trl hr] at h
    rw [stageLeft_trl hr, stageLeft_trl (by exact hr), cnt_succ_toNat (by omega)]
    omega

/-- Bytes that do not complete the stage are stored, and the block waits in it. -/
theorem feed_short {q : List Byte} {s : State} (h : q.length < s.stageLeft) :
    ∃ hb tb rxb cnt, feed q s = { s with hb := hb, tb := tb, rxb := rxb, cnt := cnt, rxq := [] } := by
  induction q generalizing s with
  | nil => exact ⟨_, _, _, _, feed_nil s⟩
  | cons b q ih =>
    rw [List.length_cons] at h
    have hi : s.rxs ≠ .idle := fun hr => by rw [stageLeft_idle hr] at h; omega
    obtain ⟨hb, tb, rxb, hbyte⟩ := rxByte_stored (s := s) b (by omega)
    have hleft := stageLeft_stored (s := s) (by omega) hb tb rxb
    obtain ⟨hb', tb', rxb', cnt', hfeed⟩ :=
      ih (s := { s with hb := hb, tb := tb, rxb := rxb, cnt := s.cnt + 1 }) (by omega)
    exact ⟨hb', tb', rxb', cnt', by rw [feed_cons_none hi hbyte, hfeed]⟩

/-! ### What a sequence of bytes can be (R113) -/

/-- The bytes that a reception meets: cut short in one of its stages, or a bad header, a frame, or a frame with a bad tail, with
anything behind. -/
inductive Stream : List Byte → Prop where
  | inHeader {q : List Byte} (h : q.length < 4) : Stream q
  | badHeader {b0 b1 b3 : Byte} {i : BitVec 8} {c : Cause} (h : headerFault b0 b1 b3 = some (i, c)) (b2 : Byte)
      (rest : List Byte) : Stream ([b0, b1, b2, b3] ++ rest)
  | inPayload {l : Byte} {p : List Byte} (h : p.length < l.toNat) : Stream ([0xAB, 0xCD, l, 0x00] ++ p)
  | inTrailer {p tr : List Byte} (hp : p.length ≤ 255) (h : tr.length < 4) :
      Stream ([0xAB, 0xCD, BitVec.ofNat 8 p.length, 0x00] ++ p ++ tr)
  | frame {p : List Byte} (hp : p.length ≤ 255) (k0 k1 : Byte) (rest : List Byte) : Stream (wireFrame p k0 k1 ++ rest)
  | badFrame {p : List Byte} (hp : p.length ≤ 255) {t2 t3 : Byte} (h : t2 ≠ 0xDC ∨ t3 ≠ 0xBA) (t0 t1 : Byte)
      (rest : List Byte) :
      Stream ([0xAB, 0xCD, BitVec.ofNat 8 p.length, 0x00] ++ p ++ [t0, t1, t2, t3] ++ rest)

theorem split_four (q : List Byte) : q.length < 4 ∨ ∃ b0 b1 b2 b3 rest, q = [b0, b1, b2, b3] ++ rest := by
  match q with
  | [] | [_] | [_, _] | [_, _, _] => exact .inl (by simp)
  | b0 :: b1 :: b2 :: b3 :: rest => exact .inr ⟨b0, b1, b2, b3, rest, rfl⟩

theorem stream_of_bytes (q : List Byte) : Stream q := by
  rcases split_four q with hq | ⟨b0, b1, l, b3, q, rfl⟩
  · exact .inHeader hq
  cases hf : headerFault b0 b1 b3 with
  | some f => exact .badHeader hf l q
  | none =>
    obtain ⟨rfl, rfl, rfl⟩ := (headerFault_eq_none_iff b0 b1 b3).mp hf
    by_cases hl : q.length < l.toNat
    · exact .inPayload hl
    have hlt := l.isLt
    obtain ⟨p, tr, rfl, hp⟩ : ∃ p tr, q = p ++ tr ∧ p.length = l.toNat :=
      ⟨q.take l.toNat, q.drop l.toNat, (List.take_append_drop ..).symm, by rw [List.length_take]; omega⟩
    obtain rfl : l = BitVec.ofNat 8 p.length := by rw [hp, BitVec.ofNat_toNat, BitVec.setWidth_eq]
    have hp255 : p.length ≤ 255 := by omega
    rw [← List.append_assoc]
    rcases split_four tr with htr | ⟨t0, t1, t2, t3, rest, rfl⟩
    · exact .inTrailer hp255 htr
    · rw [← List.append_assoc]
      by_cases ht : t2 ≠ 0xDC ∨ t3 ≠ 0xBA
      · exact .badFrame hp255 ht t0 t1 rest
      · obtain ⟨rfl, rfl⟩ : t2 = 0xDC ∧ t3 = 0xBA := by simpa using ht
        exact .frame hp255 t0 t1 rest

/-! ### What the function view makes of them (R113, R121) -/

theorem parseFrame_inHeader (c : Config) {q : List Byte} (h : q.length < 4) : parseFrame c q = (.error .inHdr, []) :=
  if_pos h

theorem parseFrame_badHeader (x : Config) {b0 b1 b3 : Byte} {i : BitVec 8} {c : Cause}
    (h : headerFault b0 b1 b3 = some (i, c)) (b2 : Byte) (rest : List Byte) :
    parseFrame x ([b0, b1, b2, b3] ++ rest) = (.error c, rest) := by
  simp [parseFrame, (headerCheck_bad (b2 := b2) h).1]

/-- Behind a good header, the payload and the trailer decide. -/
theorem parseFrame_header (c : Config) (l : Byte) (q : List Byte) :
    parseFrame c ([0xAB, 0xCD, l, 0x00] ++ q) =
      if q.length < l.toNat then (.error .inPay, [])
      else if (q.drop l.toNat).length < 4 then (.error .inTrl, [])
      else if trailerGood ((q.drop l.toNat).take 4) then
        (.ok (obfBytes c.key 0 (q.take l.toNat)), (q.drop l.toNat).drop 4)
      else (.error .badTail, (q.drop l.toNat).drop 4) := by
  rw [parseFrame, if_neg (by simp)]
  rfl

theorem parseFrame_inPayload (c : Config) {l : Byte} {p : List Byte} (h : p.length < l.toNat) :
    parseFrame c ([0xAB, 0xCD, l, 0x00] ++ p) = (.error .inPay, []) := by
  rw [parseFrame_header, if_pos h]

/-- Behind a good header and its payload, the trailer decides. -/
theorem parseFrame_payload (c : Config) {p : List Byte} (hp : p.length ≤ 255) (tr : List Byte) :
    parseFrame c ([0xAB, 0xCD, BitVec.ofNat 8 p.length, 0x00] ++ p ++ tr) =
      if tr.length < 4 then (.error .inTrl, [])
      else if trailerGood (tr.take 4) then (.ok (obfBytes c.key 0 p), tr.drop 4)
      else (.error .badTail, tr.drop 4) := by
  have hlen : (BitVec.ofNat 8 p.length).toNat = p.length := Nat.mod_eq_of_lt (by omega)
  rw [List.append_assoc, parseFrame_header, hlen, if_neg (by simp), List.drop_left, List.take_left]

theorem parseFrame_frame (c : Config) {p : List Byte} (hp : p.length ≤ 255) (k0 k1 : Byte) (rest : List Byte) :
    parseFrame c (wireFrame p k0 k1 ++ rest) = (.ok (obfBytes c.key 0 p), rest) := by
  rw [wireFrame, List.append_assoc, parseFrame_payload c hp]
  simp [trailerGood, byteAt]

theorem parseFrame_badFrame (c : Config) {p : List Byte} (hp : p.length ≤ 255) {t2 t3 : Byte} (h : t2 ≠ 0xDC ∨ t3 ≠ 0xBA)
    (t0 t1 : Byte) (rest : List Byte) :
    parseFrame c ([0xAB, 0xCD, BitVec.ofNat 8 p.length, 0x00] ++ p ++ [t0, t1, t2, t3] ++ rest) =
      (.error .badTail, rest) := by
  have hbad : trailerGood [t0, t1, t2, t3] = false := by
    simpa [trailerGood, byteAt, or_iff_not_imp_left] using h
  rw [List.append_assoc, parseFrame_payload c hp]
  simp [hbad]

/-! ### The two agree (R122) -/

/-- What stands at the answer port when a plain reception has ended. -/
def endResult : ParseEnd → Result
  | .ok p => .bytes p
  | .error c => .error c

/-- What stands in `ERR` then (10_state.md R20). -/
def endErr : ParseEnd → ErrReg
  | .ok _ => ⟨0, 0⟩
  | .error c => c.errReg

/-- What the host's program has left of `more` then (R246, log entry 35). -/
def endProgram : ParseEnd → List Input → List Input
  | .ok _, more => more
  | .error c, more => afterRaise c more

/-- A plain reception of `s` has ended as the function view says: nothing was sent, and of the rest only the working registers
may differ (10_state.md R32). -/
def State.EndedAs (t s : State) (r : ParseEnd × List Byte) : Prop := t.Ended s [] r.2 (endErr r.1) (endResult r.1)

theorem endedAs_iff (t s : State) (r : ParseEnd × List Byte) :
    t.EndedAs s r ↔ t = { s with
      crc := t.crc, ki := t.ki, len := t.len, hb := t.hb, tb := t.tb, rxb := t.rxb, err := endErr r.1, rxs := .idle,
      cnt := 0, busy := false, seq := .ret, rxq := r.2, out := endResult r.1 } := by
  rw [State.EndedAs, State.Ended, List.append_nil]

/-- A reception that waits: of `s` only the working registers and the sequencer have changed, and the bytes in `RXQ` are
taken. -/
def State.Waiting (t s : State) (st : RxStage) : Prop :=
  ∃ len cnt hb tb rxb, t = { s with len := len, cnt := cnt, hb := hb, tb := tb, rxb := rxb, busy := true, rxs := st,
                                    seq := .ret, rxq := [] }

/-- The timeout ends it with the cause of its stage (R120). -/
theorem waiting_endedAs {s t : State} {st : RxStage} {c : Cause} (ht : t.Waiting s st) (hc : timeoutCause st = some c) :
    t.timeoutEvent.EndedAs s (.error c, []) := by
  obtain ⟨len, cnt, hb, tb, rxb, rfl⟩ := ht
  rw [timeoutEvent_waiting rfl hc, endedAs_iff]
  rfl

theorem feed_inHeader (s : State) {q : List Byte} (h : q.length < 4) : (feed q s.listening).Waiting s .hdr := by
  obtain ⟨hb, tb, rxb, cnt, hfeed⟩ := feed_short (s := s.listening) h
  exact ⟨s.len, cnt, hb, tb, rxb, hfeed⟩

theorem feed_inPayload {s : State} (hs : s.Buffers) {l : Byte} {p : List Byte} (h : p.length < l.toNat) :
    (feed ([0xAB, 0xCD, l, 0x00] ++ p) s.listening).Waiting s .pay := by
  have hl : l ≠ 0 := by rintro rfl; exact absurd h (Nat.not_lt_zero _)
  obtain ⟨hb, tb, rxb, cnt, hfeed⟩ :=
    feed_short (q := p) (s := { s.listening with hb := [0xAB, 0xCD, l, 0x00], len := l, cnt := 0, rxs := .pay }) h
  rw [feed_header (s := s.listening) rfl rfl hs.1, if_neg hl]
  exact ⟨l, cnt, hb, tb, rxb, hfeed⟩

theorem feed_inTrailer {s : State} (hs : s.Buffers) {p tr : List Byte} (hp : p.length ≤ 255) (h : tr.length < 4) :
    (feed ([0xAB, 0xCD, BitVec.ofNat 8 p.length, 0x00] ++ p ++ tr) s.listening).Waiting s .trl := by
  rw [feed_upToTrailer (s := s.listening) rfl rfl hs hp]
  obtain ⟨hb, tb, rxb, cnt, hfeed⟩ := feed_short (q := tr) (s := { s.listening with
    hb := [0xAB, 0xCD, BitVec.ofNat 8 p.length, 0x00], len := BitVec.ofNat 8 p.length, rxb := p ++ s.rxb.drop p.length,
    cnt := 0, rxs := .trl }) h
  exact ⟨BitVec.ofNat 8 p.length, cnt, hb, tb, rxb, hfeed⟩

/-- One delivery and a timeout behind it: where the bytes are cut short the timeout ends the reception, and else it has ended
and the timeout does nothing. -/
theorem feed_listening_ended {s : State} (hs : s.Buffers) (q : List Byte) :
    (feed q s.listening).timeoutEvent.EndedAs s (parseFrame s.cfg q) := by
  cases stream_of_bytes q with
  | inHeader h =>
    rw [parseFrame_inHeader _ h]
    exact waiting_endedAs (feed_inHeader s h) rfl
  | inPayload h =>
    rw [parseFrame_inPayload _ h]
    exact waiting_endedAs (feed_inPayload hs h) rfl
  | inTrailer hp h =>
    rw [parseFrame_payload _ hp, if_pos h]
    exact waiting_endedAs (feed_inTrailer hs hp h) rfl
  | badHeader h b2 rest =>
    rw [parseFrame_badHeader _ h, listening_badHeader hs h, timeoutEvent_idle rfl, endedAs_iff,
      ← (headerCheck_bad (b2 := b2) h).2]
    rfl
  | frame hp k0 k1 rest =>
    rw [parseFrame_frame _ hp, listening_frame hs hp, timeoutEvent_idle rfl, endedAs_iff]
    rfl
  | badFrame hp h t0 t1 rest =>
    rw [parseFrame_badFrame _ hp h, listening_badFrame hs hp h, timeoutEvent_idle rfl, endedAs_iff]
    rfl

theorem endedAs_programLeft {s t : State} {r : ParseEnd × List Byte} (h : t.EndedAs s r) (more : List Input) :
    t.programLeft more = endProgram r.1 more := by
  have hout : t.out = endResult r.1 := by rw [h]
  have hidle : t.rxs = .idle := by rw [h]
  cases hr : r.1 with
  | ok p => exact programLeft_bytes (p := p) (by rw [hout, hr]; rfl) more
  | error c => exact programLeft_error hidle (by rw [hout, hr]; rfl) more

/-- Settles O12: the steps come to what one delivery and the timeout come to (`run_facing`), which is what the function view
says of all the bytes (`feed_listening_ended`). -/
theorem sequencerAgreesWithFunction : Obligations.SequencerAgreesWithFunction := by
  intro chunks more s hb hs hi
  have hplain : (feed s.rxq s.listening).Plain := feed_plain s.rxq rfl
  have hbytes : (feed s.rxq s.listening).deliver chunks.flatten = feed (s.rxq ++ chunks.flatten) s.listening :=
    (feed_append s.rxq chunks.flatten rfl).symm
  have hrun := (run_succ (step_frameParse hb hi) _).trans (run_facing chunks more hplain)
  rw [hbytes] at hrun
  have hended := feed_listening_ended hs (s.rxq ++ chunks.flatten)
  generalize (feed (s.rxq ++ chunks.flatten) s.listening).timeoutEvent = t at hrun hended
  generalize parseFrame s.cfg (s.rxq ++ chunks.flatten) = r at hended ⊢
  have hinq : (t.facing more).inq = endProgram r.1 more := endedAs_programLeft hended more
  rw [endedAs_iff] at hended
  have himg : t.img = s.img := by rw [hended]
  have htxq : t.txq = s.txq := by rw [hended]
  have hrxq : t.rxq = r.2 := by rw [hended]
  have hout : t.out = endResult r.1 := by rw [hended]
  have herr : t.err = endErr r.1 := by rw [hended]
  refine ⟨_, hrun, congrArg State.rxs hended, congrArg State.busy hended, himg, htxq, hrxq, ?_⟩
  obtain ⟨e, left⟩ := r
  cases e with
  | ok p => exact ⟨hout, herr, hinq⟩
  | error c => exact ⟨hout, herr, hinq⟩

end Sys2Proof.Machine
end

section
/-! Command and reply payloads (44_commands.md): what each of the seven operations answers on an idle block, and that answer
in the terms of the rules. None of them changes more than `ERR` and the answer. -/

namespace Sys2Proof.Machine

/-- An operation that only reads, where it finds its value. -/
theorem issue_read_ok {α : Type} {s : State} {f : State → Except Cause α} {v : α} (hb : s.busy = false) (g : α → Result)
    (h : f { s with busy := true } = .ok v) :
    issue s (fun t => t.commit ((f t).map fun v => (t, g v))) = .next (s.answered (g v)) := by
  rw [issue_read hb f fun _ => g, h]

/-- An operation that only reads, where it raises. -/
theorem issue_read_error {α : Type} {s : State} {f : State → Except Cause α} {c : Cause} (hb : s.busy = false)
    (g : α → Result) (h : f { s with busy := true } = .error c) :
    issue s (fun t => t.commit ((f t).map fun v => (t, g v))) = .next (s.failed c.kind c.info c) := by
  rw [issue_read hb f fun _ => g, h]

/-! ### Building a command (R131, R133, R136, R139) -/

theorem exec_cmdIdent {s : State} (hb : s.busy = false) :
    exec .cmdIdent s = .next (s.answered (.bytes (cmdIdent s.cfg))) :=
  issue_value hb fun t => .bytes (cmdIdent t.cfg)

theorem exec_cmdRead (offset : Half) (length : Byte) {s : State} (hb : s.busy = false) :
    exec (.cmdRead offset length) s = .next (s.answered (.bytes (cmdRead s.cfg offset length))) :=
  issue_value hb fun t => .bytes (cmdRead t.cfg offset length)

theorem exec_cmdReset {s : State} (hb : s.busy = false) :
    exec .cmdReset s = .next (s.answered (.bytes (cmdReset s.cfg))) :=
  issue_value hb fun t => .bytes (cmdReset t.cfg)

theorem cmdIdent_length (c : Config) : (cmdIdent c).length = 8 := by
  rw [cmdIdent, List.length_append, identPrefix_length]
  rfl

/-- The payload of R133, the two bytes of the offset as numbers. -/
theorem cmdRead_eq (c : Config) (offset : Half) (length : Byte) :
    cmdRead c offset length =
      c.readPrefix ++ [BitVec.ofNat 8 offset.toNat, BitVec.ofNat 8 (offset.toNat / 256), length] ++ c.readPad ++
        [0x6A, 0x39, 0x57, 0x64] := by
  simp [cmdRead, halfBytes_eq, Config.cmdTrailer]

theorem cmdRead_length (c : Config) (offset : Half) (length : Byte) :
    (cmdRead c offset length).length = c.readPrefix.length + c.readPad.length + 7 := by
  simp [cmdRead_eq]
  omega

/-- Settles O16, one payload after the other. -/
theorem commandPayloads : Obligations.CommandPayloads := by
  intro offset length s hb
  exact ⟨⟨opselIs_of_encode rfl, cmdIdent s.cfg, rfl, cmdIdent_length s.cfg, exec_cmdIdent hb⟩,
    ⟨opselIs_of_encode rfl, cmdRead s.cfg offset length, cmdRead_eq s.cfg offset length,
      cmdRead_length s.cfg offset length, exec_cmdRead offset length hb⟩,
    ⟨opselIs_of_encode rfl, resetCmd_length s.cfg, exec_cmdReset hb⟩⟩

/-- The write payload of R136 behind the entry `pre` of `WRITE_PREFIX`. -/
def writePayload (c : Config) (pre data : List Byte) (offset : Half) : List Byte :=
  pre ++ [BitVec.ofNat 8 offset.toNat, BitVec.ofNat 8 (offset.toNat / 256), BitVec.ofNat 8 data.length, c.writeFlag] ++
    [0x6A, 0x39, 0x57, 0x64] ++ data

theorem writePayload_length (c : Config) (pre data : List Byte) (offset : Half) :
    (writePayload c pre data offset).length = pre.length + 8 + data.length := by
  simp [writePayload]
  omega

/-- R136: `WRITE_PREFIX` has an entry for every data length of one byte. -/
theorem exists_writePrefix (c : Config) {d : Nat} (h : d < 256) :
    ∃ pre, c.writePrefix[d]? = some pre ∧ pre.length = c.wpLen := by
  have hd : d < c.writePrefix.length := by rw [writePrefix_length]; exact h
  exact ⟨c.writePrefix[d], List.getElem?_eq_getElem hd, writePrefix_getElem_length c d hd⟩

theorem cmdWrite_fits {c : Config} {pre data : List Byte} (offset : Half) (h : c.wpLen + 8 + data.length ≤ 255)
    (hpre : c.writePrefix[data.length]? = some pre) : cmdWrite c data offset = .ok (writePayload c pre data offset) := by
  have hget : c.writePrefix.getD data.length [] = pre := by rw [List.getD_eq_getElem?_getD, hpre]; rfl
  rw [cmdWrite, if_neg (by omega), hget, halfBytes_eq]
  simp [writePayload, Config.cmdTrailer]

theorem cmdWrite_tooLong {c : Config} {data : List Byte} (offset : Half) (h : 255 < c.wpLen + 8 + data.length) :
    cmdWrite c data offset = .error .tooLong := if_pos h

theorem exec_cmdWrite_fits {data pre : List Byte} {offset : Half} {s : State} (hb : s.busy = false)
    (h : s.cfg.wpLen + 8 + data.length ≤ 255) (hpre : s.cfg.writePrefix[data.length]? = some pre) :
    exec (.cmdWrite data offset) s = .next (s.answered (.bytes (writePayload s.cfg pre data offset))) :=
  issue_read_ok hb .bytes (f := fun t => cmdWrite t.cfg data offset) (cmdWrite_fits offset h hpre)

theorem exec_cmdWrite_tooLong {data : List Byte} {offset : Half} {s : State} (hb : s.busy = false)
    (h : 255 < s.cfg.wpLen + 8 + data.length) : exec (.cmdWrite data offset) s = .next (s.failed 5 1 .tooLong) :=
  issue_read_error hb .bytes (f := fun t => cmdWrite t.cfg data offset) (cmdWrite_tooLong offset h)

/-- Settles O17: a payload of at most 255 bytes has a data length of one byte, so `WRITE_PREFIX` has its entry. -/
theorem writeCommandPayload : Obligations.WriteCommandPayload := by
  intro data offset s hb
  refine ⟨opselIs_of_encode rfl, fun hfits => ?_, exec_cmdWrite_tooLong hb⟩
  obtain ⟨pre, hpre, hlen⟩ := exists_writePrefix s.cfg (d := data.length) (by omega)
  have hw := writePayload_length s.cfg pre data offset
  rw [hlen] at hw
  exact ⟨pre, writePayload s.cfg pre data offset, hpre, hlen, rfl, hw, exec_cmdWrite_fits hb hfits hpre⟩

/-! ### Reading a reply (R132, R134, R138) -/

/-- Past its first `k` bytes, a sequence goes on at place `k`. -/
theorem byteAt_drop (r : List Byte) (k i : Nat) : byteAt (r.drop k) i = byteAt r (k + i) := by
  simp [byteAt, List.getD_eq_getElem?_getD]

theorem byteAt_take {r : List Byte} {n i : Nat} (h : i < n) : byteAt (r.take n) i = byteAt r i := by
  simp [byteAt, List.getD_eq_getElem?_getD, List.getElem?_take_of_lt h]

/-- A byte found at a place is the byte there, and the sequence reaches that far. -/
theorem getElem?_eq_some_iff_byteAt (r : List Byte) (i : Nat) (v : Byte) :
    r[i]? = some v ↔ i < r.length ∧ byteAt r i = v := by
  rw [List.getElem?_eq_some_iff]
  refine ⟨fun ⟨h, hv⟩ => ⟨h, ?_⟩, fun ⟨h, hv⟩ => ⟨h, ?_⟩⟩
  · rw [byteAt, List.getD_eq_getElem _ _ h, hv]
  · rw [← hv, byteAt, List.getD_eq_getElem _ _ h]

theorem printable_iff (b : Byte) : printable b = true ↔ 0x20 ≤ b.toNat ∧ b.toNat ≤ 0x7E := by
  rw [printable, Bool.and_eq_true, decide_eq_true_eq, decide_eq_true_eq]

/-- Where the firmware string of R132 ends: at the first byte from offset 5 on that is not printable, or behind the reply. -/
def identEnd (r : List Byte) : Nat := 5 + (r.drop 5).findIdx fun b => !printable b

theorem rspIdent_eq_take_drop (r : List Byte) : rspIdent r = (r.take (identEnd r)).drop 5 := by
  rw [rspIdent, List.takeWhile_eq_take_findIdx_not, List.drop_take, identEnd, Nat.add_sub_cancel_left]

theorem printable_rspIdent (r : List Byte) : Printable (rspIdent r) := fun b hb =>
  (printable_iff b).mp (List.mem_takeWhile_imp hb)

theorem identEnd_le_length {r : List Byte} (h : 5 < identEnd r) : identEnd r ≤ r.length := by
  have hle : (r.drop 5).findIdx (fun b => !printable b) ≤ (r.drop 5).length := List.findIdx_le_length
  rw [List.length_drop] at hle
  unfold identEnd at h ⊢
  omega

/-- What ends the run before the reply ends is a byte that is not printable. -/
theorem not_printable_identEnd {r : List Byte} (h : identEnd r < r.length) : printable (byteAt r (identEnd r)) = false := by
  have hlt : (r.drop 5).findIdx (fun b => !printable b) < (r.drop 5).length := by
    rw [List.length_drop]
    unfold identEnd at h
    omega
  have hstop := List.findIdx_getElem (w := hlt)
  rw [identEnd, ← byteAt_drop, byteAt, List.getD_eq_getElem _ _ hlt]
  simpa using hstop

theorem exec_rspIdent (r : List Byte) {s : State} (hb : s.busy = false) :
    exec (.rspIdent r) s = .next (s.answered (.bytes (rspIdent r))) :=
  issue_value hb fun _ => .bytes (rspIdent r)

/-- Settles O18: the printable run ends at `identEnd`. -/
theorem identReplyString : Obligations.IdentReplyString := by
  intro r s hb
  refine ⟨opselIs_of_encode rfl, identEnd r, Nat.le_add_right 5 _, identEnd_le_length, ?_, fun h => ?_, ?_⟩
  · exact rspIdent_eq_take_drop r ▸ printable_rspIdent r
  · have hnot := (printable_iff (byteAt r (identEnd r))).not.mp (by simp [not_printable_identEnd h])
    omega
  · exact rspIdent_eq_take_drop r ▸ exec_rspIdent r hb

theorem rspRead_enough {r : List Byte} {length : Byte} (h : length.toNat ≤ r.length - 8) :
    rspRead r length = .ok ((r.drop 8).take length.toNat) :=
  if_neg (by rw [List.length_drop]; exact h.not_gt)

theorem rspRead_short {r : List Byte} {length : Byte} (h : r.length - 8 < length.toNat) :
    rspRead r length = .error .shortReply :=
  if_pos (by rw [List.length_drop]; exact h)

theorem exec_rspRead_enough {r : List Byte} {length : Byte} {s : State} (hb : s.busy = false)
    (h : length.toNat ≤ r.length - 8) :
    exec (.rspRead r length) s = .next (s.answered (.bytes ((r.drop 8).take length.toNat))) :=
  issue_read_ok hb .bytes (f := fun _ => rspRead r length) (rspRead_enough h)

theorem exec_rspRead_short {r : List Byte} {length : Byte} {s : State} (hb : s.busy = false)
    (h : r.length - 8 < length.toNat) : exec (.rspRead r length) s = .next (s.failed 2 1 .shortReply) :=
  issue_read_error hb .bytes (f := fun _ => rspRead r length) (rspRead_short h)

/-- Settles O19: the answer is the first `length` bytes of what stands behind the header. -/
theorem readReplyData : Obligations.ReadReplyData := by
  intro r length s hb
  refine ⟨opselIs_of_encode rfl, fun henough => ?_, exec_rspRead_short hb⟩
  refine ⟨(r.drop 8).take length.toNat, ?_, fun i hi => ?_, exec_rspRead_enough hb henough⟩
  · rw [List.length_take, List.length_drop, Nat.min_eq_left henough]
  · rw [byteAt_take hi, byteAt_drop]

/-- The three comparisons of R138; a place that the reply does not reach fails its own. -/
theorem rspWrite_iff (c : Config) (r : List Byte) (offset : Half) :
    rspWrite c r offset = true ↔ Acknowledges c r offset.toNat := by
  obtain ⟨hlow, hhigh⟩ : offset.extractLsb' 0 8 = BitVec.ofNat 8 offset.toNat ∧
      offset.extractLsb' 8 8 = BitVec.ofNat 8 (offset.toNat / 256) := by simpa [halfBytes] using halfBytes_eq offset
  simp only [Acknowledges, getElem?_eq_some_iff_byteAt, rspWrite, hlow, hhigh]
  split
  · next hshort => exact iff_of_false Bool.false_ne_true fun ⟨⟨hopc, _⟩, ⟨hlo, _⟩, ⟨hhi, _⟩⟩ => by omega
  · next hreach =>
    obtain ⟨⟨hopc, hlo⟩, hhi⟩ : (c.ackOpcPos < r.length ∧ c.ackOffLoPos < r.length) ∧ c.ackOffHiPos < r.length := by omega
    simp [hopc, hlo, hhi, and_assoc]

theorem exec_rspWrite (r : List Byte) (offset : Half) {s : State} (hb : s.busy = false) :
    exec (.rspWrite r offset) s = .next (s.answered (.bool (rspWrite s.cfg r offset))) :=
  issue_value hb fun t => .bool (rspWrite t.cfg r offset)

/-- Settles O20: the answer is the value of the comparisons (`rspWrite_iff`). -/
theorem writeReplyAcknowledges : Obligations.WriteReplyAcknowledges := fun r offset s hb =>
  ⟨opselIs_of_encode rfl, rspWrite s.cfg r offset, exec_rspWrite r offset hb, rspWrite_iff s.cfg r offset⟩

end Sys2Proof.Machine
end

section
/-! The bit fields of a record (00_scope.md R8, 20_memory.md R46), bit by bit: what a field reads, what writing one changes,
and what writing fields that share no bit leaves behind. -/

namespace Sys2Proof.Machine

/-! ### One field -/

theorem byte_ext {a b : Byte} (h : ∀ j, j < 8 → a.getLsbD j = b.getLsbD j) : a = b :=
  BitVec.eq_of_getLsbD_eq fun j hj => h j hj

theorem lowMask_toNat {f : FieldDesc} (h : f.width ≤ 8) : (lowMask f).toNat = 2 ^ f.width - 1 := by
  obtain ⟨_, _, w⟩ := f
  obtain rfl | hlt := Nat.eq_or_lt_of_le h
  · simp [lowMask]
  · have hpow : 2 ^ w < 2 ^ 8 := Nat.pow_lt_pow_right (by decide) hlt
    have hpos : 0 < 2 ^ w := Nat.two_pow_pos w
    simp only [lowMask, BitVec.toNat_sub, BitVec.toNat_shiftLeft, BitVec.toNat_ofNat, Nat.shiftLeft_eq, Nat.reducePow,
      Nat.reduceMod, Nat.one_mul] at hpow ⊢
    omega

theorem getLsbD_lowMask {f : FieldDesc} (h : f.width ≤ 8) (k : Nat) : (lowMask f).getLsbD k = decide (k < f.width) := by
  rw [BitVec.getLsbD, lowMask_toNat h, Nat.testBit_two_pow_sub_one]

/-- A field as the number of its bits, the lowest first (R8). -/
theorem getf_toNat {f : FieldDesc} (h : FieldFits f) (r : List Byte) : (getf r f).toNat = fieldNat r f := by
  rw [getf, BitVec.toNat_and, lowMask_toNat (by omega), BitVec.toNat_ushiftRight, Nat.and_two_pow_sub_one_eq_mod,
    Nat.shiftRight_eq_div_pow, fieldNat]

theorem getf_lt {f : FieldDesc} (h : FieldFits f) (r : List Byte) : (getf r f).toNat < 2 ^ f.width := by
  rw [getf_toNat h]
  exact Nat.mod_lt _ (Nat.two_pow_pos _)

theorem getLsbD_getf {f : FieldDesc} (h : FieldFits f) (r : List Byte) (k : Nat) :
    (getf r f).getLsbD k = ((byteAt r f.byte).getLsbD (f.shift + k) && decide (k < f.width)) := by
  rw [getf, BitVec.getLsbD_and, BitVec.getLsbD_ushiftRight, getLsbD_lowMask (by omega)]

theorem covers_iff (f : FieldDesc) (i j : Nat) :
    covers f i j = true ↔ i = f.byte ∧ f.shift ≤ j ∧ j < f.shift + f.width := by
  simp [covers, and_assoc]

theorem covers_of_lt {f : FieldDesc} {k : Nat} (h : k < f.width) : covers f f.byte (f.shift + k) = true := by
  rw [covers_iff]
  omega

/-- Fields that share no bit (R72, R73). -/
theorem covers_apart {f g : FieldDesc} {i j : Nat} (h : FieldsApart f g) (hf : covers f i j = true) :
    covers g i j = false := by
  rw [covers_iff] at hf
  rw [Bool.eq_false_iff, ne_eq, covers_iff]
  omega

/-- A field is read from the bits it covers and from no other (45_channel_record.md R179). -/
theorem getf_congr {f : FieldDesc} (h : FieldFits f) {r r' : List Byte}
    (hbits : ∀ i j, j < 8 → covers f i j = true → (byteAt r i).getLsbD j = (byteAt r' i).getLsbD j) :
    getf r f = getf r' f := by
  refine byte_ext fun k _ => ?_
  rw [getLsbD_getf h, getLsbD_getf h]
  by_cases hk : k < f.width
  · rw [hbits _ _ (by omega) (covers_of_lt hk)]
  · simp [hk]

@[simp] theorem putf_length (r : List Byte) (f : FieldDesc) (v : Byte) : (putf r f v).length = r.length := by
  rw [putf, List.length_set]

theorem byteAt_set (r : List Byte) {n : Nat} (h : n < r.length) (b : Byte) (i : Nat) :
    byteAt (r.set n b) i = if i = n then b else byteAt r i := by
  rw [byteAt, byteAt, List.getD_eq_getElem?_getD, List.getD_eq_getElem?_getD]
  by_cases hi : i = n
  · rw [if_pos hi, hi, List.getElem?_set_self h, Option.getD_some]
  · rw [if_neg hi, List.getElem?_set_ne (Ne.symm hi)]

theorem getLsbD_fieldMask {f : FieldDesc} (h : FieldFits f) {j : Nat} (hj : j < 8) :
    (fieldMask f).getLsbD j = covers f f.byte j := by
  rw [fieldMask, BitVec.getLsbD_shiftLeft, getLsbD_lowMask (by omega), Bool.eq_iff_iff, covers_iff]
  simp only [Bool.and_eq_true, decide_eq_true_eq, Bool.not_eq_true', decide_eq_false_iff_not, true_and]
  omega

/-- Writing a field changes the bits it covers and no other (R8, R46). -/
theorem getLsbD_putf {r : List Byte} {f : FieldDesc} (hr : f.byte < r.length) (hf : FieldFits f) (v : Byte) (i : Nat)
    {j : Nat} (hj : j < 8) :
    (byteAt (putf r f v) i).getLsbD j =
      if covers f i j = true then v.getLsbD (j - f.shift) else (byteAt r i).getLsbD j := by
  rw [putf, byteAt_set r hr]
  by_cases hi : i = f.byte
  · subst hi
    rw [if_pos rfl, BitVec.getLsbD_or, BitVec.getLsbD_and, BitVec.getLsbD_not, BitVec.getLsbD_and,
      BitVec.getLsbD_shiftLeft, getLsbD_fieldMask hf hj]
    by_cases hc : covers f f.byte j = true
    · have hshift : ¬ j < f.shift := by rw [covers_iff] at hc; omega
      simp [hc, hj, hshift]
    · simp [hc, hj]
  · have hc : covers f i j ≠ true := fun hc => hi ((covers_iff f i j).mp hc).1
    rw [if_neg hi, if_neg hc]

theorem getf_putf {r : List Byte} {f : FieldDesc} (hr : f.byte < r.length) (hf : FieldFits f) {v : Byte}
    (hv : v.toNat < 2 ^ f.width) : getf (putf r f v) f = v := by
  refine byte_ext fun k _ => ?_
  rw [getLsbD_getf hf]
  by_cases hk : k < f.width
  · rw [getLsbD_putf hr hf v _ (by omega), if_pos (covers_of_lt hk), Nat.add_sub_cancel_left]
    simp [hk]
  · have hzero : v.getLsbD k = false :=
      Nat.testBit_lt_two_pow (Nat.lt_of_lt_of_le hv (Nat.pow_le_pow_right (by decide) (by omega)))
    simp [hk, hzero]

/-- Writing what a field reads changes nothing. -/
theorem putf_getf {r : List Byte} {f : FieldDesc} (hr : f.byte < r.length) (hf : FieldFits f) :
    putf r f (getf r f) = r := by
  refine list_ext_byteAt (putf_length ..) fun i _ => byte_ext fun j hj => ?_
  rw [getLsbD_putf hr hf _ _ hj]
  split
  · next hc =>
    obtain ⟨rfl, hlo, hhi⟩ := (covers_iff f i j).mp hc
    have hwidth : j - f.shift < f.width := by omega
    rw [getLsbD_getf hf, Nat.add_sub_cancel' hlo]
    simp [hwidth]
  · rfl

/-! ### Several fields -/

/-- Fields written one after the other, each with its value. -/
def putFields (r : List Byte) : List (FieldDesc × Byte) → List Byte
  | [] => r
  | x :: l => putFields (putf r x.1 x.2) l

/-- Every field lies inside a record of `n` bytes (R8). -/
def FieldsInside (n : Nat) (l : List (FieldDesc × Byte)) : Prop := ∀ x ∈ l, x.1.byte < n ∧ FieldFits x.1

theorem fieldsInside_cons {n : Nat} {x : FieldDesc × Byte} {l : List (FieldDesc × Byte)} :
    FieldsInside n (x :: l) ↔ (x.1.byte < n ∧ FieldFits x.1) ∧ FieldsInside n l := List.forall_mem_cons

@[simp] theorem putFields_length (r : List Byte) (l : List (FieldDesc × Byte)) : (putFields r l).length = r.length := by
  induction l generalizing r with
  | nil => rfl
  | cons x l ih => rw [putFields, ih, putf_length]

/-- A bit that no field covers stays (45_channel_record.md R179). -/
theorem getLsbD_putFields {r : List Byte} {l : List (FieldDesc × Byte)} (hl : FieldsInside r.length l) {i j : Nat}
    (hj : j < 8) (hc : ∀ x ∈ l, covers x.1 i j = false) :
    (byteAt (putFields r l) i).getLsbD j = (byteAt r i).getLsbD j := by
  induction l generalizing r with
  | nil => rfl
  | cons x l ih =>
    obtain ⟨⟨hbyte, hfits⟩, hl⟩ := fieldsInside_cons.mp hl
    obtain ⟨hx, hc⟩ := List.forall_mem_cons.mp hc
    have hrest := ih (r := putf r x.1 x.2) (by rwa [putf_length]) hc
    rw [putFields, hrest, getLsbD_putf hbyte hfits _ _ hj, hx]
    exact if_neg Bool.false_ne_true

/-- A byte that holds no field stays. -/
theorem byteAt_putFields {r : List Byte} {l : List (FieldDesc × Byte)} (hl : FieldsInside r.length l) {i : Nat}
    (hi : ∀ x ∈ l, x.1.byte ≠ i) : byteAt (putFields r l) i = byteAt r i := by
  refine byte_ext fun j hj => getLsbD_putFields hl hj fun x hx => ?_
  rw [Bool.eq_false_iff, ne_eq, covers_iff]
  exact fun hc => hi x hx hc.1.symm

/-- Fields that share no bit: each then reads the value written to it. -/
theorem getf_putFields {r : List Byte} {l : List (FieldDesc × Byte)} (hl : FieldsInside r.length l)
    (hapart : l.Pairwise fun x y => FieldsApart x.1 y.1) {x : FieldDesc × Byte} (hx : x ∈ l)
    (hv : x.2.toNat < 2 ^ x.1.width) : getf (putFields r l) x.1 = x.2 := by
  induction l generalizing r with
  | nil => cases hx
  | cons y l ih =>
    obtain ⟨⟨hbyte, hfits⟩, hl⟩ := fieldsInside_cons.mp hl
    obtain ⟨hy, hapart⟩ := List.pairwise_cons.mp hapart
    have hl' : FieldsInside (putf r y.1 y.2).length l := by rwa [putf_length]
    obtain rfl | hx := List.mem_cons.mp hx
    · refine Eq.trans (getf_congr hfits fun i j hj hc => ?_) (getf_putf hbyte hfits hv)
      exact getLsbD_putFields hl' hj fun z hz => covers_apart (hy z hz) hc
    · exact ih hl' hapart hx

/-- Writing what the fields read changes nothing. -/
theorem putFields_self {r : List Byte} {l : List (FieldDesc × Byte)} (hl : FieldsInside r.length l)
    (h : ∀ x ∈ l, getf r x.1 = x.2) : putFields r l = r := by
  induction l with
  | nil => rfl
  | cons x l ih =>
    obtain ⟨⟨hbyte, hfits⟩, hl⟩ := fieldsInside_cons.mp hl
    obtain ⟨hx, h⟩ := List.forall_mem_cons.mp h
    rw [putFields, ← hx, putf_getf hbyte hfits]
    exact ih hl h

end Sys2Proof.Machine
end

section
/-! Tones and steps (45_channel_record.md R154 to R158, R170, R171): the index of a value in its table, what is stored for a
tone and what is read back, and the four operations on an idle block. -/

namespace Sys2Proof.Machine

/-! ### Tables -/

/-- The index that a lookup answers is the first one (R157, R171). -/
theorem tableIndex_eq (v : Nat) (l : List Nat) :
    tableIndex v l = if l.contains v = true then some (l.idxOf v) else none := by
  induction l with
  | nil => rfl
  | cons x l ih =>
    rw [tableIndex, ih]
    by_cases hx : x = v
    · simp [hx]
    · by_cases hv : v ∈ l <;> simp [hx, hv, Ne.symm hx]

/-- In a table with distinct entries (R155) a value stands at one place. -/
theorem getElem?_eq_some_iff_idxOf {l : List Nat} (h : l.Nodup) (i v : Nat) : l[i]? = some v ↔ v ∈ l ∧ l.idxOf v = i := by
  rw [List.getElem?_eq_some_iff]
  constructor
  · rintro ⟨hi, rfl⟩
    exact ⟨List.getElem_mem hi, h.idxOf_getElem i hi⟩
  · rintro ⟨hv, rfl⟩
    exact ⟨List.idxOf_lt_length_of_mem hv, List.getElem_idxOf _⟩

/-- An entry read behind a check of its index. -/
theorem ite_getD_eq_elim {α β : Type} (l : List α) (i : Nat) (d : α) (no : β) (mk : α → β) :
    (if i < l.length then mk (l.getD i d) else no) = (l[i]?).elim no mk := by
  by_cases h : i < l.length
  · rw [if_pos h, List.getD_eq_getElem _ _ h, List.getElem?_eq_getElem h, Option.elim_some]
  · rw [if_neg h, List.getElem?_eq_none (Nat.not_lt.mp h), Option.elim_none]

/-! ### Tones -/

theorem toneDec_none (c : Config) (code : Byte) : toneDec c 0 code = .noTone := rfl

theorem toneDec_ctcss (c : Config) (code : Byte) : toneDec c 1 code = (c.ctcss[code.toNat]?).elim .noTone .ctcss := by
  rw [← ite_getD_eq_elim _ _ 0, ctcss_length]
  rfl

theorem toneDec_dcs (c : Config) (code : Byte) :
    toneDec c 2 code = (c.dcs[code.toNat]?).elim .noTone fun v => .dcs v false := by
  rw [← ite_getD_eq_elim _ _ 0]
  rfl

theorem toneDec_dcsReversed (c : Config) (code : Byte) :
    toneDec c 3 code = (c.dcs[code.toNat]?).elim .noTone fun v => .dcs v true := by
  rw [← ite_getD_eq_elim _ _ 0]
  rfl

/-- The type and the code byte that R157 and R158 give a tone of its table. -/
def toneCode (c : Config) : Tone → BitVec 2 × Byte
  | .noTone => (0, 0)
  | .ctcss v => (1, BitVec.ofNat 8 (c.ctcss.idxOf v))
  | .dcs v false => (2, BitVec.ofNat 8 (c.dcs.idxOf v))
  | .dcs v true => (3, BitVec.ofNat 8 (c.dcs.idxOf v))

theorem toneCodeAt_tableIndex (type : BitVec 2) (v : Nat) (l : List Nat) :
    toneCodeAt type (tableIndex v l) =
      if l.contains v = true then .ok (type, BitVec.ofNat 8 (l.idxOf v)) else .error .tone := by
  rw [tableIndex_eq]
  split <;> rfl

/-- `TONE.ENC` whole: it looks up, and never clamps (R157). -/
theorem toneEnc_eq (c : Config) (t : Tone) :
    toneEnc c t = if toneKnown c t = true then .ok (toneCode c t) else .error .tone := by
  match t with
  | .noTone => rfl
  | .ctcss v => exact toneCodeAt_tableIndex 1 v c.ctcss
  | .dcs v false => exact toneCodeAt_tableIndex 2 v c.dcs
  | .dcs v true => exact toneCodeAt_tableIndex 3 v c.dcs

theorem ofNat_eq_iff {n : Nat} (h : n < 256) (b : Byte) : BitVec.ofNat 8 n = b ↔ n = b.toNat := by
  rw [← BitVec.toNat_inj, BitVec.toNat_ofNat, Nat.mod_eq_of_lt h]

/-- An entry of a table at a code byte: the byte is the index that a lookup answers. -/
theorem getElem?_byte_iff {l : List Nat} (h : l.Nodup) (hl : l.length ≤ 256) (code : Byte) (v : Nat) :
    l[code.toNat]? = some v ↔ l.contains v = true ∧ BitVec.ofNat 8 (l.idxOf v) = code := by
  rw [getElem?_eq_some_iff_idxOf h, List.contains_iff_mem]
  exact and_congr_right fun hv => (ofNat_eq_iff (by have := List.idxOf_lt_length_of_mem hv; omega) code).symm

/-- A type is one of four. -/
theorem toneType_eq_iff (ty : BitVec 2) {n : Nat} (h : n < 4) : ty.toNat = n ↔ BitVec.ofNat 2 n = ty := by
  rw [← BitVec.toNat_inj, BitVec.toNat_ofNat, Nat.mod_eq_of_lt h, eq_comm]

/-- A type and a code byte stand for a tone of its table exactly where the encoder gives them. -/
theorem toneStored_iff {c : Config} (h : WfTables c) (t : Tone) (ty : BitVec 2) (code : Byte) :
    ToneStored c t ty.toNat code ↔ toneKnown c t = true ∧ toneCode c t = (ty, code) := by
  obtain ⟨hctcss, hlen, hdcs, -⟩ := h
  have hentry := getElem?_byte_iff hdcs hlen code
  match t with
  | .noTone =>
    simp only [ToneStored, toneKnown, toneCode, Prod.mk.injEq, toneType_eq_iff ty (n := 0) (by decide), true_and]
    exact and_congr_right fun _ => eq_comm
  | .ctcss v =>
    have hbound : code.toNat < 50 ∧ c.ctcss[code.toNat]? = some v ↔ c.ctcss[code.toNat]? = some v :=
      and_iff_right_of_imp fun hv => ctcss_length c ▸ (List.getElem?_eq_some_iff.mp hv).1
    rw [getElem?_byte_iff hctcss (by simp) code] at hbound
    simp only [ToneStored, toneKnown, toneCode, Prod.mk.injEq, toneType_eq_iff ty (n := 1) (by decide),
      getElem?_byte_iff hctcss (by simp) code, hbound]
    exact and_left_comm
  | .dcs v false =>
    simp only [ToneStored, toneKnown, toneCode, Prod.mk.injEq, hentry, toneType_eq_iff ty (n := 2) (by decide)]
    exact and_left_comm
  | .dcs v true =>
    simp only [ToneStored, toneKnown, toneCode, Prod.mk.injEq, hentry, toneType_eq_iff ty (n := 3) (by decide)]
    exact and_left_comm

/-- What is stored for a tone is read back as the tone (R157). -/
theorem toneDec_of_stored {c : Config} {t : Tone} {ty : BitVec 2} {code : Byte} (h : ToneStored c t ty.toNat code) :
    toneDec c ty code = t := by
  match t, h with
  | .noTone, ⟨hty, _⟩ =>
    obtain rfl := (toneType_eq_iff ty (by decide)).mp hty
    rfl
  | .ctcss v, ⟨hty, _, hv⟩ =>
    obtain rfl := (toneType_eq_iff ty (by decide)).mp hty
    exact (toneDec_ctcss c code).trans (by rw [hv]; rfl)
  | .dcs v false, ⟨hty, hv⟩ =>
    obtain rfl := (toneType_eq_iff ty (by decide)).mp hty
    exact (toneDec_dcs c code).trans (by rw [hv]; rfl)
  | .dcs v true, ⟨hty, hv⟩ =>
    obtain rfl := (toneType_eq_iff ty (by decide)).mp hty
    exact (toneDec_dcsReversed c code).trans (by rw [hv]; rfl)

theorem toneType_cases (ty : BitVec 2) : ty = 0 ∨ ty = 1 ∨ ty = 2 ∨ ty = 3 := by
  revert ty
  decide

/-- A canonical half (R178, item 2) is stored for the tone that it reads as. -/
theorem toneStored_toneDec {c : Config} {ty : BitVec 2} {code : Byte}
    (h : canonicalTone c ty.toNat code.toNat = true) : ToneStored c (toneDec c ty code) ty.toNat code := by
  obtain rfl | rfl | rfl | rfl := toneType_cases ty
  · have hcode : code.toNat = 0 := beq_iff_eq.mp h
    exact ⟨rfl, BitVec.eq_of_toNat_eq hcode⟩
  · have hcode : code.toNat < c.ctcss.length := ctcss_length c ▸ of_decide_eq_true h
    rw [toneDec_ctcss, List.getElem?_eq_getElem hcode]
    exact ⟨rfl, of_decide_eq_true h, List.getElem?_eq_getElem hcode⟩
  · have hcode : code.toNat < c.dcs.length := of_decide_eq_true h
    rw [toneDec_dcs, List.getElem?_eq_getElem hcode]
    exact ⟨rfl, List.getElem?_eq_getElem hcode⟩
  · have hcode : code.toNat < c.dcs.length := of_decide_eq_true h
    rw [toneDec_dcsReversed, List.getElem?_eq_getElem hcode]
    exact ⟨rfl, List.getElem?_eq_getElem hcode⟩

theorem exec_toneDec (ty : BitVec 2) (code : Byte) {s : State} (hb : s.busy = false) :
    exec (.toneDec ty code) s = .next (s.answered (.tone (toneDec s.cfg ty code))) :=
  issue_value hb fun t => .tone (toneDec t.cfg ty code)

/-- Settles O24, type by type. -/
theorem toneDecodeTable : Obligations.ToneDecodeTable := by
  intro code s hb
  refine ⟨fun _ => opselIs_of_encode rfl, ?_, ?_, ?_, ?_⟩
  · rw [exec_toneDec 0 code hb, toneDec_none]
  · rw [exec_toneDec 1 code hb, toneDec_ctcss]
    cases s.cfg.ctcss[code.toNat]? <;> rfl
  · rw [exec_toneDec 2 code hb, toneDec_dcs]
    cases s.cfg.dcs[code.toNat]? <;> rfl
  · rw [exec_toneDec 3 code hb, toneDec_dcsReversed]
    cases s.cfg.dcs[code.toNat]? <;> rfl

theorem exec_toneEnc_known {t : Tone} {s : State} (hb : s.busy = false) (h : toneKnown s.cfg t = true) :
    exec (.toneEnc t) s = .next (s.answered (.toneCode (toneCode s.cfg t).1 (toneCode s.cfg t).2)) :=
  issue_read_ok hb (fun p => .toneCode p.1 p.2) (f := fun u => toneEnc u.cfg t) ((toneEnc_eq s.cfg t).trans (if_pos h))

theorem exec_toneEnc_unknown {t : Tone} {s : State} (hb : s.busy = false) (h : toneKnown s.cfg t = false) :
    exec (.toneEnc t) s = .next (s.failed 4 1 .tone) :=
  issue_read_error hb (fun p => .toneCode p.1 p.2) (f := fun u => toneEnc u.cfg t)
    ((toneEnc_eq s.cfg t).trans (if_neg (Bool.eq_false_iff.mp h)))

/-- Settles O25: the lookup answers the index of the entry, and the entry at that index is the tone. -/
theorem toneEncodeLookup : Obligations.ToneEncodeLookup := by
  intro t s hb htables
  refine ⟨opselIs_of_encode rfl, fun hknown => ?_, exec_toneEnc_unknown hb⟩
  have hstored := (toneStored_iff htables t _ _).mpr ⟨hknown, rfl⟩
  refine ⟨_, _, hstored, exec_toneEnc_known hb hknown, ?_⟩
  rw [exec_toneDec _ _ hb, toneDec_of_stored hstored]

/-! ### Steps -/

/-- Bits 3 to 1 of the step byte, as a number (R170). -/
theorem stepDec_eq (c : Config) (b : Byte) : stepDec c b = c.step.getD (b.toNat / 2 % 8) c.stepDefault := by
  have hindex : (b.extractLsb' 1 3).toNat = b.toNat / 2 % 8 := by
    rw [BitVec.extractLsb'_toNat, Nat.shiftRight_eq_div_pow]
  have hentry := ite_getD_eq_elim c.step (b.toNat / 2 % 8) 0 c.stepDefault id
  rw [stepDec, hindex, List.getD_eq_getElem?_getD (a := c.stepDefault)]
  refine hentry.trans ?_
  cases c.step[b.toNat / 2 % 8]? <;> rfl

/-- `STEP.ENC` whole (R171). -/
theorem stepEnc_eq (c : Config) (v : StepVal) :
    stepEnc c v = if c.step.contains v = true then .ok (BitVec.ofNat 3 (c.step.idxOf v)) else .error .step := by
  rw [stepEnc, tableIndex_eq]
  by_cases h : c.step.contains v = true
  · simp only [if_pos h]
  · simp only [if_neg h]

/-- The step list has at most eight entries (R170), so that an index fits three bits. -/
theorem ofNat_idxOf_step {c : Config} {v : StepVal} (h : v ∈ c.step) :
    (BitVec.ofNat 3 (c.step.idxOf v)).toNat = c.step.idxOf v := by
  have hlt := List.idxOf_lt_length_of_mem h
  have hlen := step_length c
  have htop := c.stepTop.isLt
  rw [BitVec.toNat_ofNat, Nat.mod_eq_of_lt]
  omega

theorem exec_stepDec (b : Byte) {s : State} (hb : s.busy = false) :
    exec (.stepDec b) s = .next (s.answered (.step (stepDec s.cfg b))) :=
  issue_value hb fun t => .step (stepDec t.cfg b)

theorem exec_stepEnc_known {v : StepVal} {s : State} (hb : s.busy = false) (h : v ∈ s.cfg.step) :
    exec (.stepEnc v) s = .next (s.answered (.stepIndex (BitVec.ofNat 3 (s.cfg.step.idxOf v)))) :=
  issue_read_ok hb .stepIndex (f := fun t => stepEnc t.cfg v)
    ((stepEnc_eq s.cfg v).trans (if_pos (List.contains_iff_mem.mpr h)))

theorem exec_stepEnc_unknown {v : StepVal} {s : State} (hb : s.busy = false) (h : v ∉ s.cfg.step) :
    exec (.stepEnc v) s = .next (s.failed 4 2 .step) :=
  issue_read_error hb .stepIndex (f := fun t => stepEnc t.cfg v)
    ((stepEnc_eq s.cfg v).trans (if_neg fun hv => h (List.contains_iff_mem.mp hv)))

/-- Settles O26, the reading and the writing side. -/
theorem stepDecodeEncode : Obligations.StepDecodeEncode := by
  intro b v s hb
  refine ⟨⟨opselIs_of_encode rfl, by rw [exec_stepDec b hb, stepDec_eq]⟩, opselIs_of_encode rfl, fun hv => ?_,
    exec_stepEnc_unknown hb⟩
  refine ⟨_, ?_, exec_stepEnc_known hb hv⟩
  rw [ofNat_idxOf_step hv]
  exact List.getElem?_idxOf hv

end Sys2Proof.Machine
end

section
/-! Validation (45_channel_record.md R163, R164, R174): the checks of a channel in their order, and what is stored where none
fails. -/

namespace Sys2Proof.Machine

/-- `duplex_enc` whole (R163): no duplex is stored with a zero offset. -/
theorem duplexEnc_eq (c : Config) (d : Duplex) (o : Word) :
    duplexEnc c d o =
      if duplexBad c d o = true then .error .badDuplex else .ok (duplexCode c d, if d = .dupNone then 0 else o) := by
  cases d with
  | dupNone => rfl
  | plus | minus => simp [duplexEnc, duplexBad, duplexCode]
  | reserved k => simp [duplexEnc, duplexBad, duplexCode, or_assoc]

/-- `power_enc` whole (R164). -/
theorem powerEnc_eq (c : Config) (p : Power) :
    powerEnc c p = if powerBad c p = true then .error .badEnum else .ok (powerCode c p) := by
  cases p with
  | low | med | high => rfl
  | reserved k => simp [powerEnc, powerBad, powerCode, or_assoc]

theorem emptyFreq_iff (f : Word) : emptyFreq f = true ↔ f = 0 ∨ f = 0xFFFFFFFF := by
  rw [emptyFreq, Bool.or_eq_true, beq_iff_eq, beq_iff_eq]

/-- What validation computes for a channel that fails no check (R174). -/
def packedOf (c : Config) (ch : Chan) : Packed where
  dcode := duplexCode c ch.duplex
  off := if ch.duplex = .dupNone then 0 else ch.offset10
  rxt := (toneCode c ch.rxTone).1
  rxc := (toneCode c ch.rxTone).2
  txt := (toneCode c ch.txTone).1
  txc := (toneCode c ch.txTone).2
  pcode := powerCode c ch.power
  sidx := BitVec.ofNat 3 (c.step.idxOf ch.step)

/-- The channel passes every check of R174. -/
structure Encodable (c : Config) (ch : Chan) : Prop where
  freq : emptyFreq ch.freq10 = false
  duplex : duplexBad c ch.duplex ch.offset10 = false
  rxTone : toneKnown c ch.rxTone = true
  txTone : toneKnown c ch.txTone = true
  power : powerBad c ch.power = false
  step : c.step.contains ch.step = true
  scrambler : ch.scrambler.toNat ≤ c.scrMax

/-- The checks, from the first to the last: the first that fails is the one raised, or none fails. -/
theorem validate_cases (c : Config) (ch : Chan) :
    (∃ x : Cause, firstFailure c ch = some (x.kind, x.info, x) ∧ validate c ch = .error x) ∨
      (firstFailure c ch = none ∧ Encodable c ch) := by
  rw [validate, firstFailure, duplexEnc_eq, toneEnc_eq, toneEnc_eq, powerEnc_eq, stepEnc_eq]
  simp only [← emptyFreq_iff]
  cases hfreq : emptyFreq ch.freq10 with
  | true => exact .inl ⟨.badFreq, rfl, rfl⟩
  | false =>
  cases hduplex : duplexBad c ch.duplex ch.offset10 with
  | true => exact .inl ⟨.badDuplex, rfl, rfl⟩
  | false =>
  cases hrx : toneKnown c ch.rxTone with
  | false => exact .inl ⟨.tone, rfl, rfl⟩
  | true =>
  cases htx : toneKnown c ch.txTone with
  | false => exact .inl ⟨.tone, rfl, rfl⟩
  | true =>
  cases hpower : powerBad c ch.power with
  | true => exact .inl ⟨.badEnum, rfl, rfl⟩
  | false =>
  cases hstep : c.step.contains ch.step with
  | false => exact .inl ⟨.step, rfl, rfl⟩
  | true =>
  by_cases hscr : c.scrMax < ch.scrambler.toNat
  · exact .inl ⟨.enumValue, if_pos hscr, if_pos hscr⟩
  · exact .inr ⟨if_neg hscr, ⟨hfreq, hduplex, hrx, htx, hpower, hstep, Nat.not_lt.mp hscr⟩⟩

theorem encodable_of_firstFailure {c : Config} {ch : Chan} (h : firstFailure c ch = none) : Encodable c ch := by
  obtain ⟨x, hx, -⟩ | ⟨-, hch⟩ := validate_cases c ch
  · rw [h] at hx; cases hx
  · exact hch

theorem validate_of_encodable {c : Config} {ch : Chan} (h : Encodable c ch) : validate c ch = .ok (packedOf c ch) := by
  rw [validate, duplexEnc_eq, toneEnc_eq, toneEnc_eq, powerEnc_eq, stepEnc_eq, h.freq, h.duplex, h.rxTone, h.txTone,
    h.power, h.step]
  exact if_neg h.scrambler.not_gt

theorem validate_of_firstFailure {c : Config} {ch : Chan} {k : BitVec 3} {i : BitVec 8} {x : Cause}
    (h : firstFailure c ch = some (k, i, x)) : validate c ch = .error x ∧ k = x.kind ∧ i = x.info := by
  obtain ⟨y, hy, herror⟩ | ⟨hnone, -⟩ := validate_cases c ch
  · rw [h] at hy
    cases hy
    exact ⟨herror, rfl, rfl⟩
  · rw [h] at hnone
    cases hnone

/-! ### Refusing (R150, R174) -/

/-- An operation that raises leaves everything but `ERR`, the sequencer's idle values and the answer (60_exceptions.md
R250). -/
theorem issue_commit_error {α : Type} {s : State} {f : State → Except Cause α} {c : Cause} (hb : s.busy = false)
    (g : State → α → State × Result) (h : f { s with busy := true } = .error c) :
    issue s (fun t => t.commit ((f t).map (g t))) = .next (s.failed c.kind c.info c) := by
  rw [issue_idle hb, h, map_error, commit_error, busy_raise hb]

theorem exec_chEncode_error {n : Nat} {ch : Channel} {s : State} {c : Cause} (hb : s.busy = false)
    (h : ({ s with busy := true } : State).encodeChannel n ch = .error c) :
    exec (.chEncode n ch) s = .next (s.failed c.kind c.info c) :=
  issue_commit_error hb (f := fun t => t.encodeChannel n ch) (fun _ u => (u, .done)) h

/-- The number is checked before everything else (R150, R174). -/
theorem encodeChannel_badNumber {n : Nat} (h : n < 1 ∨ 214 < n) (ch : Channel) (s : State) :
    s.encodeChannel n ch = .error .badChannel := by
  cases ch with
  | empty => rw [State.encodeChannel, State.eraseChannel, channelSlot_bad h, bind_error]
  | chan ch => rw [State.encodeChannel, channelSlot_bad h, bind_error]

theorem encodeChannel_invalid {n : Nat} (h1 : 1 ≤ n) (h2 : n ≤ 214) {ch : Chan} {s : State} {x : Cause}
    (h : validate s.cfg ch = .error x) : s.encodeChannel n (.chan ch) = .error x := by
  rw [State.encodeChannel, channelSlot_ok h1 h2, bind_ok, h, bind_error]

theorem channelRecord_badNumber {n : Nat} (h : n < 1 ∨ 214 < n) (s : State) : s.channelRecord n = .error .badChannel := by
  rw [State.channelRecord, channelSlot_bad h, bind_error]

/-- Encoding `Empty` is erasing (R181). -/
theorem exec_chEncode_empty (n : Nat) (s : State) : exec (.chEncode n .empty) s = exec (.chErase n) s := rfl

section
variable {n : Nat} {s : State} (hb : s.busy = false)
include hb

theorem exec_chEncode_badNumber (h : n < 1 ∨ 214 < n) (ch : Channel) :
    exec (.chEncode n ch) s = .next (s.failed 5 4 .badChannel) :=
  exec_chEncode_error hb (encodeChannel_badNumber h ch _)

theorem exec_chErase_badNumber (h : n < 1 ∨ 214 < n) : exec (.chErase n) s = .next (s.failed 5 4 .badChannel) :=
  exec_chEncode_badNumber hb h .empty

theorem exec_chDecode_badNumber (h : n < 1 ∨ 214 < n) : exec (.chDecode n) s = .next (s.failed 5 4 .badChannel) :=
  issue_commit_error hb (f := fun t => t.channelRecord n) (fun t r => (t, .channel (channelOf t.cfg r)))
    (channelRecord_badNumber h _)

theorem exec_chIsEmpty_badNumber (h : n < 1 ∨ 214 < n) : exec (.chIsEmpty n) s = .next (s.failed 5 4 .badChannel) :=
  issue_commit_error hb (f := fun t => t.channelRecord n) (fun t r => (t, .bool (emptyFreq (wordAt r 0))))
    (channelRecord_badNumber h _)

theorem exec_nameDecode_badNumber (h : n < 1 ∨ 200 < n) : exec (.nameDecode n) s = .next (s.failed 5 4 .badChannel) :=
  issue_commit_error hb (f := fun t => t.nameDecode n) (c := .badChannel) (fun t r => (t, .bytes r))
    (by rw [State.nameDecode, nameSlot_bad h, bind_error])

theorem exec_nameEncode_badNumber (h : n < 1 ∨ 200 < n) (txt : List Byte) :
    exec (.nameEncode n txt) s = .next (s.failed 5 4 .badChannel) :=
  issue_commit_error hb (f := fun t => t.nameEncode n txt) (c := .badChannel) (fun _ u => (u, .done))
    (by rw [State.nameEncode, nameSlot_bad h, bind_error])

end

/-- Settles O28: validation comes before the record is read or written. -/
theorem encodeRaisesFirstFailure : Obligations.EncodeRaisesFirstFailure := by
  intro n ch s hb
  refine ⟨fun hn => exec_chEncode_badNumber hb hn _, fun h1 h2 k i x h => ?_⟩
  obtain ⟨hinvalid, rfl, rfl⟩ := validate_of_firstFailure h
  exact exec_chEncode_error hb (encodeChannel_invalid h1 h2 hinvalid)

/-- Settles O22: the number comes first in each of the six operations. -/
theorem badChannelNumberRefused : Obligations.BadChannelNumberRefused := by
  intro n ch txt s hb
  simp only [List.forall_mem_cons]
  exact ⟨fun hn => ⟨exec_chDecode_badNumber hb hn, exec_chEncode_badNumber hb hn ch, exec_chErase_badNumber hb hn,
      exec_chIsEmpty_badNumber hb hn, List.forall_mem_nil _⟩,
    fun hn => ⟨exec_nameDecode_badNumber hb hn, exec_nameEncode_badNumber hb hn txt, List.forall_mem_nil _⟩⟩

end Sys2Proof.Machine
end

section
/-! The record that holds a channel (45_channel_record.md R172, R175): `packRecord` makes one, `channelOf` reads one, and
packing over a record that holds the channel already changes nothing. -/

namespace Sys2Proof.Machine

/-! ### Where the fields stand (30_encoding.md R69, R72 to R75) -/

/-- `WfFields`, its parts named. -/
structure FieldLayout (c : Config) : Prop where
  duplex : FlagDesc c.fDuplex 2
  am : FlagDesc c.fAm 1
  bw : FlagDesc c.fBw 1
  rev : FlagDesc c.fRev 1
  power : FlagDesc c.fPower 2
  bclo : FlagDesc c.fBclo 1
  pttid : c.fPttid.byte = 13 ∧ c.fPttid.width = 2 ∧ FieldFits c.fPttid
  dtmfdec : c.fDtmfdec.byte = 13 ∧ c.fDtmfdec.width = 1 ∧ FieldFits c.fDtmfdec
  scr : c.fScr.byte = 15 ∧ 1 ≤ c.fScr.width ∧ FieldFits c.fScr
  scrMax : c.scrMax < 2 ^ c.fScr.width
  apart : (flagDescs c).Pairwise FieldsApart
  dupLt : ∀ k ∈ dupCodes c, k < 2 ^ c.fDuplex.width
  dupNodup : (dupCodes c).Nodup
  pwrLt : ∀ k ∈ pwrCodes c, k < 2 ^ c.fPower.width
  pwrNodup : (pwrCodes c).Nodup

theorem fieldLayout {c : Config} (h : WfFields c) : FieldLayout c := by
  obtain ⟨hduplex, ham, hbw, hrev, hpower, hbclo, hpttid, hdtmf, hscr, hmax, hapart, hdup, hdupNodup, hpwr, hpwrNodup⟩ := h
  exact ⟨hduplex, ham, hbw, hrev, hpower, hbclo, hpttid, hdtmf, hscr, hmax, hapart, hdup, hdupNodup, hpwr, hpwrNodup⟩

theorem flagDescs_inside {c : Config} (h : WfFields c) : ∀ f ∈ flagDescs c, 11 ≤ f.byte ∧ f.byte ≤ 13 ∧ FieldFits f := by
  have hl := fieldLayout h
  have hflag {f : FieldDesc} {w : Nat} (hf : FlagDesc f w) : 11 ≤ f.byte ∧ f.byte ≤ 13 ∧ FieldFits f := by
    obtain ⟨hbyte, -, hfits⟩ := hf
    omega
  have hdtmf {f : FieldDesc} {w : Nat} (hf : f.byte = 13 ∧ f.width = w ∧ FieldFits f) :
      11 ≤ f.byte ∧ f.byte ≤ 13 ∧ FieldFits f := by
    obtain ⟨hbyte, -, hfits⟩ := hf
    omega
  simp only [flagDescs, List.forall_mem_cons]
  exact ⟨hflag hl.duplex, hflag hl.am, hflag hl.bw, hflag hl.rev, hflag hl.power, hflag hl.bclo, hdtmf hl.pttid,
    hdtmf hl.dtmfdec, List.forall_mem_nil _⟩

theorem allDescs_inside {c : Config} (h : WfFields c) : ∀ f ∈ allDescs c, 10 ≤ f.byte ∧ f.byte < 16 ∧ FieldFits f := by
  have hflags := flagDescs_inside h
  obtain ⟨hscr, -, hfits⟩ := (fieldLayout h).scr
  simp only [allDescs, List.forall_mem_append, List.forall_mem_cons]
  refine ⟨⟨⟨by decide, by decide, List.forall_mem_nil _⟩, fun f hf => ?_⟩, by decide, by omega, List.forall_mem_nil _⟩
  have := hflags f hf
  omega

theorem allDescs_apart {c : Config} (h : WfFields c) : (allDescs c).Pairwise FieldsApart := by
  have hflags := flagDescs_inside h
  obtain ⟨hscr, -⟩ := (fieldLayout h).scr
  have hbyte {f g : FieldDesc} (hfg : f.byte < g.byte) : FieldsApart f g := .inl hfg.ne
  have hcodes : ∀ f ∈ [fRxType, fTxType], f.byte = 10 := by decide
  have hlast : ∀ f ∈ [fStep, c.fScr], 14 ≤ f.byte := by simp [fStep, hscr]
  have hends : [fStep, c.fScr].Pairwise FieldsApart := List.pairwise_pair.mpr (hbyte (hscr ▸ by decide))
  refine List.pairwise_append.mpr
    ⟨List.pairwise_append.mpr ⟨by decide, (fieldLayout h).apart, fun f hf g hg => hbyte ?_⟩, hends,
      fun f hf g hg => hbyte ?_⟩
  · have := hcodes f hf
    have := hflags g hg
    omega
  · have := hlast g hg
    obtain hf | hf := List.mem_append.mp hf
    · have := hcodes f hf
      omega
    · have := hflags f hf
      omega

/-! ### Writing the fields of a channel -/

/-- One bit as `putBit` writes it. -/
def bitByte (b : Bool) : Byte := if b then 1 else 0

/-- The fields that R175 writes with `putf`, in its order, and their values. -/
def packFields (c : Config) (ch : Chan) (p : Packed) : List (FieldDesc × Byte) :=
  [(fRxType, p.rxt.setWidth 8), (fTxType, p.txt.setWidth 8), (c.fDuplex, BitVec.ofNat 8 p.dcode), (c.fAm, bitByte ch.am),
   (c.fBw, bitByte ch.narrow), (c.fRev, bitByte ch.reverse), (c.fPower, BitVec.ofNat 8 p.pcode),
   (c.fBclo, bitByte ch.bclo), (c.fPttid, ch.pttid.setWidth 8), (c.fDtmfdec, bitByte ch.dtmfDecode),
   (fStep, p.sidx.setWidth 8), (c.fScr, ch.scrambler)]

/-- They are the fields of the record, one by one. -/
theorem packFields_descs (c : Config) (ch : Chan) (p : Packed) : (packFields c ch p).map Prod.fst = allDescs c := rfl

theorem packRecord_eq (c : Config) (r : List Byte) (ch : Chan) (p : Packed) :
    packRecord c r ch p = putFields (putBytes (startRecord c r) ch p) (packFields c ch p) := rfl

theorem desc_mem_allDescs {c : Config} {ch : Chan} {p : Packed} {x : FieldDesc × Byte} (h : x ∈ packFields c ch p) :
    x.1 ∈ allDescs c := packFields_descs c ch p ▸ List.mem_map_of_mem h

theorem packFields_inside {c : Config} (h : WfFields c) (ch : Chan) (p : Packed) :
    FieldsInside 16 (packFields c ch p) := fun _ hx => (allDescs_inside h _ (desc_mem_allDescs hx)).2

theorem packFields_apart {c : Config} (h : WfFields c) (ch : Chan) (p : Packed) :
    (packFields c ch p).Pairwise fun x y => FieldsApart x.1 y.1 :=
  List.pairwise_map.mp (packFields_descs c ch p ▸ allDescs_apart h)

theorem startRecord_length {c : Config} {r : List Byte} (h : r.length = 16) : (startRecord c r).length = 16 := by
  rw [startRecord]
  split
  · rfl
  · exact h

theorem putBytes_length {r : List Byte} (h : r.length = 16) (ch : Chan) (p : Packed) : (putBytes r ch p).length = 16 := by
  simp [putBytes, wordBytes, h]

theorem packRecord_length {c : Config} {r : List Byte} (h : r.length = 16) (ch : Chan) (p : Packed) :
    (packRecord c r ch p).length = 16 := by
  rw [packRecord_eq, putFields_length, putBytes_length (startRecord_length h)]

/-- Bytes 0 to 9 hold no bit field. -/
theorem byteAt_packRecord {c : Config} (hf : WfFields c) {r : List Byte} (h : r.length = 16) (ch : Chan) (p : Packed)
    {i : Nat} (hi : i < 10) : byteAt (packRecord c r ch p) i = byteAt (putBytes (startRecord c r) ch p) i := by
  have hlen := putBytes_length (startRecord_length (c := c) h) ch p
  rw [packRecord_eq, byteAt_putFields (hlen ▸ packFields_inside hf ch p)]
  intro x hx
  have := allDescs_inside hf _ (desc_mem_allDescs hx)
  omega

/-- From byte 10 on only bit fields are written. -/
theorem byteAt_putBytes (r : List Byte) (ch : Chan) (p : Packed) {i : Nat} (hi : 10 ≤ i) :
    byteAt (putBytes r ch p) i = byteAt r i := by
  have hhead : (wordBytes ch.freq10 ++ wordBytes p.off ++ [p.rxc, p.txc]).length = 10 := rfl
  rw [putBytes, byteAt_append_right (hhead ▸ hi), hhead, byteAt_drop, Nat.add_sub_cancel' hi]

theorem putBytes_self {r : List Byte} (h : r.length = 16) {ch : Chan} {p : Packed} (hfreq : wordAt r 0 = ch.freq10)
    (hoff : wordAt r 4 = p.off) (hrx : byteAt r 8 = p.rxc) (htx : byteAt r 9 = p.txc) : putBytes r ch p = r := by
  refine list_ext_byteAt (by rw [putBytes_length h, h]) fun i _ => ?_
  by_cases hi : 10 ≤ i
  · exact byteAt_putBytes r ch p hi
  · rw [putBytes, ← hfreq, ← hoff, ← hrx, ← htx, wordAt, wordAt, wordBytes_le32, wordBytes_le32]
    interval_cases i <;> rfl

/-! ### The record of a channel -/

/-- The record `r` holds the channel `ch`: every field reads what R175 stores for it. -/
structure Holds (c : Config) (r : List Byte) (ch : Chan) : Prop where
  freq : wordAt r 0 = ch.freq10
  offset : wordAt r 4 = (packedOf c ch).off
  rxCode : byteAt r 8 = (packedOf c ch).rxc
  txCode : byteAt r 9 = (packedOf c ch).txc
  fields : ∀ x ∈ packFields c ch (packedOf c ch), getf r x.1 = x.2

theorem bitByte_lt (b : Bool) : (bitByte b).toNat < 2 ^ 1 := by cases b <;> decide

/-- A number that fits its field fits a byte. -/
theorem ofNat_field_toNat {f : FieldDesc} (hf : FieldFits f) {n : Nat} (h : n < 2 ^ f.width) :
    (BitVec.ofNat 8 n).toNat = n :=
  Nat.mod_eq_of_lt (Nat.lt_of_lt_of_le h (Nat.pow_le_pow_right (by decide) (by omega)))

theorem setWidth_byte_lt {w : Nat} (v : BitVec w) : (v.setWidth 8).toNat < 2 ^ w := by
  rw [BitVec.toNat_setWidth]
  exact Nat.lt_of_le_of_lt (Nat.mod_le ..) v.isLt

theorem duplexCode_lt {c : Config} (h : WfFields c) (d : Duplex) : duplexCode c d < 2 ^ c.fDuplex.width := by
  obtain ⟨-, hwidth, -⟩ := (fieldLayout h).duplex
  have hcodes := (fieldLayout h).dupLt
  simp only [List.forall_mem_cons] at hcodes
  obtain ⟨hnone, hplus, hminus, -⟩ := hcodes
  cases d with
  | dupNone => exact hnone
  | plus => exact hplus
  | minus => exact hminus
  | reserved k =>
    rw [hwidth]
    exact k.isLt

theorem powerCode_lt {c : Config} (h : WfFields c) (p : Power) : powerCode c p < 2 ^ c.fPower.width := by
  obtain ⟨-, hwidth, -⟩ := (fieldLayout h).power
  have hcodes := (fieldLayout h).pwrLt
  simp only [List.forall_mem_cons] at hcodes
  obtain ⟨hlow, hmed, hhigh, -⟩ := hcodes
  cases p with
  | low => exact hlow
  | med => exact hmed
  | high => exact hhigh
  | reserved k =>
    rw [hwidth]
    exact k.isLt

theorem duplexCode_byte {c : Config} (h : WfFields c) (d : Duplex) :
    (BitVec.ofNat 8 (duplexCode c d)).toNat = duplexCode c d := by
  obtain ⟨-, -, hfits⟩ := (fieldLayout h).duplex
  exact ofNat_field_toNat hfits (duplexCode_lt h d)

theorem powerCode_byte {c : Config} (h : WfFields c) (p : Power) :
    (BitVec.ofNat 8 (powerCode c p)).toNat = powerCode c p := by
  obtain ⟨-, -, hfits⟩ := (fieldLayout h).power
  exact ofNat_field_toNat hfits (powerCode_lt h p)

/-- Every value fits its field (R7, R72 to R75). -/
theorem packFields_lt {c : Config} (h : WfFields c) {ch : Chan} (hch : Encodable c ch) :
    ∀ x ∈ packFields c ch (packedOf c ch), x.2.toNat < 2 ^ x.1.width := by
  have hl := fieldLayout h
  have hbit {f : FieldDesc} {P Q : Prop} (hf : P ∧ f.width = 1 ∧ Q) (b : Bool) : (bitByte b).toNat < 2 ^ f.width := by
    obtain ⟨-, hwidth, -⟩ := hf
    exact hwidth ▸ bitByte_lt b
  have hpttid : (ch.pttid.setWidth 8).toNat < 2 ^ c.fPttid.width := by
    obtain ⟨-, hwidth, -⟩ := hl.pttid
    rw [hwidth]
    exact setWidth_byte_lt ch.pttid
  simp only [packFields, List.forall_mem_cons]
  exact ⟨setWidth_byte_lt _, setWidth_byte_lt _, (duplexCode_byte h _).trans_lt (duplexCode_lt h _), hbit hl.am _,
    hbit hl.bw _, hbit hl.rev _, (powerCode_byte h _).trans_lt (powerCode_lt h _), hbit hl.bclo _, hpttid,
    hbit hl.dtmfdec _, setWidth_byte_lt _, Nat.lt_of_le_of_lt hch.scrambler hl.scrMax, List.forall_mem_nil _⟩

/-- What `CH.ENCODE` stores holds the channel (R175). -/
theorem holds_packRecord {c : Config} (hf : WfFields c) {r : List Byte} (h : r.length = 16) {ch : Chan}
    (hch : Encodable c ch) : Holds c (packRecord c r ch (packedOf c ch)) ch := by
  have hbyte {i : Nat} (hi : i < 10) := byteAt_packRecord hf h ch (packedOf c ch) hi
  refine ⟨?_, ?_, hbyte (by decide), hbyte (by decide), fun x hx => ?_⟩
  · rw [wordAt, hbyte (by decide), hbyte (by decide), hbyte (by decide), hbyte (by decide)]
    exact le32_wordBytes ch.freq10
  · rw [wordAt, hbyte (by decide), hbyte (by decide), hbyte (by decide), hbyte (by decide)]
    exact le32_wordBytes (packedOf c ch).off
  · have hlen := putBytes_length (startRecord_length (c := c) h) ch (packedOf c ch)
    rw [packRecord_eq]
    exact getf_putFields (hlen ▸ packFields_inside hf _ _) (packFields_apart hf _ _) hx (packFields_lt hf hch x hx)

/-- Packing a channel over a record that holds it changes nothing (R177). -/
theorem packRecord_of_holds {c : Config} (hf : WfFields c) {r : List Byte} (h : r.length = 16) (he : r ≠ erasedRecord)
    {ch : Chan} (hr : Holds c r ch) : packRecord c r ch (packedOf c ch) = r := by
  have hstart : startRecord c r = r := if_neg fun ⟨_, herased⟩ => he herased
  rw [packRecord_eq, hstart, putBytes_self h hr.freq hr.offset hr.rxCode hr.txCode]
  exact putFields_self (h ▸ packFields_inside hf _ _) hr.fields

end Sys2Proof.Machine
end

section
/-! Reading a record that holds a channel (45_channel_record.md R162, R164, R172): every field gives back what was stored. -/

namespace Sys2Proof.Machine

/-! ### The values of a field -/

theorem wordAt_toNat (r : List Byte) (i : Nat) : (wordAt r i).toNat = le32Nat r i := le32_toNat ..

theorem wordAt_eq_iff (r : List Byte) (i : Nat) (v : Word) : wordAt r i = v ↔ le32Nat r i = v.toNat := by
  rw [← wordAt_toNat, BitVec.toNat_inj]

/-- A field of `w` bits, cut to `w` bits. -/
theorem getf_setWidth {f : FieldDesc} {w : Nat} (hf : FieldFits f) (hw : f.width = w) (r : List Byte) :
    ((getf r f).setWidth w).toNat = (getf r f).toNat := by
  rw [BitVec.toNat_setWidth, Nat.mod_eq_of_lt (hw ▸ getf_lt hf r)]

/-- A value of `w` bits in a byte, and back. -/
theorem setWidth_byte_toNat {w : Nat} (hw : w ≤ 8) (v : BitVec w) : (v.setWidth 8).toNat = v.toNat := by
  rw [BitVec.toNat_setWidth, Nat.mod_eq_of_lt (Nat.lt_of_lt_of_le v.isLt (Nat.pow_le_pow_right (by decide) hw))]

/-- A one-bit field is the byte of its boolean (R8). -/
theorem bitByte_getBit {f : FieldDesc} (hf : FieldFits f) (hw : f.width = 1) (r : List Byte) :
    bitByte (getBit r f) = getf r f := by
  have hlt := getf_lt hf r
  rw [hw] at hlt
  rw [getBit, bitByte]
  split
  · next h => exact (beq_iff_eq.mp h).symm
  · next h =>
    have hne : (getf r f).toNat ≠ 1 := fun h1 => h (beq_iff_eq.mpr (BitVec.eq_of_toNat_eq h1))
    have hzero : (getf r f).toNat = 0 := by omega
    exact (BitVec.eq_of_toNat_eq (y := 0) hzero).symm

theorem getBit_of_getf {r : List Byte} {f : FieldDesc} {b : Bool} (h : getf r f = bitByte b) : getBit r f = b := by
  rw [getBit, h]
  cases b <;> rfl

theorem fStep_fits : FieldFits fStep := by decide

/-- The step of a record is the entry at its step field (R170, R172). -/
theorem stepDec_byteAt (c : Config) (r : List Byte) :
    stepDec c (byteAt r 14) = c.step.getD (getf r fStep).toNat c.stepDefault := by
  rw [stepDec_eq, getf_toNat fStep_fits]
  rfl

/-! ### A record that holds a channel -/

/-- The duplex stored is the duplex read (R162, R163). -/
theorem duplexOf_of_code {c : Config} (hcodes : (dupCodes c).Nodup) {r : List Byte} {d : Duplex} {o : Word}
    (hbad : duplexBad c d o = false) (hcode : (getf r c.fDuplex).toNat = duplexCode c d)
    (hoff : wordAt r 4 = if d = .dupNone then 0 else o) : duplexOf c r = d := by
  obtain ⟨⟨hplus, hminus⟩, hplusMinus⟩ : (c.dupNone ≠ c.dupPlus ∧ c.dupNone ≠ c.dupMinus) ∧ c.dupPlus ≠ c.dupMinus := by
    simpa using hcodes
  rw [duplexOf, hcode, hoff]
  cases d with
  | dupNone => rfl
  | plus =>
    have ho : o ≠ 0#32 := beq_eq_false_iff_ne.mp hbad
    simp [duplexCode, ho, hplus.symm]
  | minus =>
    have ho : o ≠ 0#32 := beq_eq_false_iff_ne.mp hbad
    simp [duplexCode, ho, hminus.symm, hplusMinus.symm]
  | reserved k =>
    obtain ⟨⟨⟨ho, hnone⟩, hp⟩, hm⟩ : ((o ≠ 0#32 ∧ k.toNat ≠ c.dupNone) ∧ k.toNat ≠ c.dupPlus) ∧ k.toNat ≠ c.dupMinus := by
      simpa [duplexBad] using hbad
    simp [duplexCode, reservedCode, ho, hnone, hp, hm]

/-- The power stored is the power read (R164). -/
theorem powerOf_of_code {c : Config} (hcodes : (pwrCodes c).Nodup) {r : List Byte} {p : Power}
    (hbad : powerBad c p = false) (hcode : (getf r c.fPower).toNat = powerCode c p) : powerOf c r = p := by
  obtain ⟨⟨hmed, hhigh⟩, hmedHigh⟩ : (c.pwrLow ≠ c.pwrMed ∧ c.pwrLow ≠ c.pwrHigh) ∧ c.pwrMed ≠ c.pwrHigh := by
    simpa using hcodes
  rw [powerOf, hcode]
  cases p with
  | low => simp [powerCode]
  | med => simp [powerCode, hmed.symm]
  | high => simp [powerCode, hhigh.symm, hmedHigh.symm]
  | reserved k =>
    obtain ⟨⟨hl, hm⟩, hh⟩ : (k.toNat ≠ c.pwrLow ∧ k.toNat ≠ c.pwrMed) ∧ k.toNat ≠ c.pwrHigh := by
      simpa [powerBad] using hbad
    simp [powerCode, reservedCode, hl, hm, hh]

/-- A tone field and its code byte read as the tone they are stored for (R156, R157). -/
theorem toneDec_of_code {c : Config} (h : WfTables c) {t : Tone} (ht : toneKnown c t = true) {ty code : Byte}
    (hty : ty = (toneCode c t).1.setWidth 8) (hcode : code = (toneCode c t).2) : toneDec c (ty.setWidth 2) code = t := by
  have hcut : ty.setWidth 2 = (toneCode c t).1 := by
    rw [hty]
    exact BitVec.setWidth_setWidth_of_le _ (by decide)
  rw [hcut, hcode]
  exact toneDec_of_stored ((toneStored_iff h t _ _).mpr ⟨ht, rfl⟩)

/-- What `CH.DECODE` gives back of a channel (R180). -/
def readBack (ch : Chan) : Chan := { ch with offset10 := if ch.duplex = .dupNone then 0 else ch.offset10 }

/-- A record that holds a channel reads as the channel (R180). -/
theorem channelOf_of_holds {c : Config} (hf : WfFields c) (ht : WfTables c) {r : List Byte} {ch : Chan}
    (hch : Encodable c ch) (hr : Holds c r ch) : channelOf c r = .chan (readBack ch) := by
  have hl := fieldLayout hf
  obtain ⟨hfreq, hoff, hrxc, htxc, hfields⟩ := hr
  simp only [packFields, List.forall_mem_cons] at hfields
  obtain ⟨hrx, htx, hduplex, ham, hnarrow, hrev, hpower, hbclo, hpttid, hdtmf, hstep, hscr, -⟩ := hfields
  have hstepRead : stepDec c (byteAt r 14) = ch.step := by
    have hmem := List.contains_iff_mem.mp hch.step
    rw [stepDec_byteAt, hstep, setWidth_byte_toNat (by decide), packedOf, ofNat_idxOf_step hmem,
      List.getD_eq_getElem?_getD, List.getElem?_idxOf hmem, Option.getD_some]
  have hduplexRead := duplexOf_of_code hl.dupNodup hch.duplex
    ((congrArg BitVec.toNat hduplex).trans (duplexCode_byte hf _)) hoff
  have hpowerRead := powerOf_of_code hl.pwrNodup hch.power ((congrArg BitVec.toNat hpower).trans (powerCode_byte hf _))
  rw [channelOf, hfreq, hch.freq, if_neg Bool.false_ne_true, chanOf, hfreq, hoff, hduplexRead, hpowerRead, hstepRead, hscr,
    toneDec_of_code ht hch.rxTone hrx hrxc, toneDec_of_code ht hch.txTone htx htxc, getBit_of_getf ham,
    getBit_of_getf hnarrow, getBit_of_getf hrev, getBit_of_getf hbclo, getBit_of_getf hdtmf, hpttid,
    BitVec.setWidth_setWidth_of_le _ (by decide), BitVec.setWidth_eq]
  rfl

end Sys2Proof.Machine
end

section
/-! A canonical record (45_channel_record.md R178) holds the channel that it reads as (R177). -/

namespace Sys2Proof.Machine

/-- The items of R178 for a record in use. -/
structure CanonicalInUse (c : Config) (r : List Byte) : Prop where
  freq : emptyFreq (wordAt r 0) = false
  rxTone : canonicalTone c (getf r fRxType).toNat (byteAt r 8).toNat = true
  txTone : canonicalTone c (getf r fTxType).toNat (byteAt r 9).toNat = true
  step : (getf r fStep).toNat < c.step.length
  duplex : wordAt r 4 = 0 ↔ (getf r c.fDuplex).toNat = c.dupNone
  scrambler : (getf r c.fScr).toNat ≤ c.scrMax

theorem canonicalRecord_cases {c : Config} {r : List Byte} (h : canonicalRecord c r = true) :
    r = erasedRecord ∨ CanonicalInUse c r := by
  simp only [canonicalRecord, Bool.or_eq_true, Bool.and_eq_true, beq_iff_eq, Bool.not_eq_true', decide_eq_true_eq] at h
  refine h.imp_right fun ⟨⟨⟨⟨⟨hfreq, hrx⟩, htx⟩, hstep⟩, hduplex⟩, hscr⟩ => ⟨hfreq, hrx, htx, hstep, ?_, hscr⟩
  rw [← beq_iff_eq, hduplex, beq_iff_eq]

/-- The duplex read is none only with a zero offset, has the field's value as its code, and can be encoded (R162, R163). -/
theorem duplexOf_canonical {c : Config} {r : List Byte} (hlt : (getf r c.fDuplex).toNat < 4)
    (h : wordAt r 4 = 0 ↔ (getf r c.fDuplex).toNat = c.dupNone) :
    duplexBad c (duplexOf c r) (wordAt r 4) = false ∧ duplexCode c (duplexOf c r) = (getf r c.fDuplex).toNat ∧
      (duplexOf c r = .dupNone → wordAt r 4 = 0) := by
  rw [duplexOf]
  by_cases h0 : wordAt r 4 = 0
  · rw [if_pos h0]
    exact ⟨rfl, (h.mp h0).symm, fun _ => h0⟩
  · have hnone : (getf r c.fDuplex).toNat ≠ c.dupNone := fun he => h0 (h.mpr he)
    have hkept : (reservedCode (getf r c.fDuplex).toNat).toNat = (getf r c.fDuplex).toNat := Nat.mod_eq_of_lt hlt
    have hoff : (wordAt r 4 == 0) = false := beq_eq_false_iff_ne.mpr h0
    rw [if_neg h0, if_neg hnone]
    split_ifs with hplus hminus
    · exact ⟨hoff, hplus.symm, nofun⟩
    · exact ⟨hoff, hminus.symm, nofun⟩
    · refine ⟨?_, hkept, nofun⟩
      rw [duplexBad, hkept, hoff]
      simp [hnone, hplus, hminus]

/-- The power read has the field's value as its code and can be encoded (R164). -/
theorem powerOf_canonical {c : Config} {r : List Byte} (hlt : (getf r c.fPower).toNat < 4) :
    powerBad c (powerOf c r) = false ∧ powerCode c (powerOf c r) = (getf r c.fPower).toNat := by
  have hkept : (reservedCode (getf r c.fPower).toNat).toNat = (getf r c.fPower).toNat := Nat.mod_eq_of_lt hlt
  rw [powerOf]
  split_ifs with hlow hmed hhigh
  · exact ⟨rfl, hlow.symm⟩
  · exact ⟨rfl, hmed.symm⟩
  · exact ⟨rfl, hhigh.symm⟩
  · refine ⟨?_, hkept⟩
    simp [powerBad, hkept, hlow, hmed, hhigh]

/-- The step read is an entry of the list, and its index is the field's value (R170, R171). -/
theorem stepDec_canonical {c : Config} (hn : c.step.Nodup) {r : List Byte} (h : (getf r fStep).toNat < c.step.length) :
    stepDec c (byteAt r 14) ∈ c.step ∧ c.step.idxOf (stepDec c (byteAt r 14)) = (getf r fStep).toNat := by
  rw [stepDec_byteAt]
  refine (getElem?_eq_some_iff_idxOf hn _ _).mp ?_
  rw [List.getElem?_eq_getElem h, List.getD_eq_getElem _ _ h]

/-- A two-bit type and its code byte, read as a tone, are what the encoder gives the tone (R156, R157). -/
theorem toneCode_canonical {c : Config} (ht : WfTables c) {r : List Byte} {f : FieldDesc} (hf : FieldFits f)
    (hw : f.width = 2) {code : Byte} (h : canonicalTone c (getf r f).toNat code.toNat = true) :
    toneKnown c (toneDec c ((getf r f).setWidth 2) code) = true ∧
      toneCode c (toneDec c ((getf r f).setWidth 2) code) = ((getf r f).setWidth 2, code) := by
  rw [← getf_setWidth hf hw] at h
  exact (toneStored_iff ht _ _ _).mp (toneStored_toneDec h)

/-- A field of `w` bits, cut to `w` bits and put in a byte again. -/
theorem setWidth_getf_setWidth {f : FieldDesc} {w : Nat} (hf : FieldFits f) (hw : f.width = w) (r : List Byte) :
    ((getf r f).setWidth w).setWidth 8 = getf r f := by
  apply BitVec.eq_of_toNat_eq
  rw [setWidth_byte_toNat (by omega), getf_setWidth hf hw]

/-- A number that is the value of a field, as a byte. -/
theorem ofNat_eq_getf {r : List Byte} {f : FieldDesc} {n : Nat} (h : n = (getf r f).toNat) :
    BitVec.ofNat 8 n = getf r f := by
  rw [h, BitVec.ofNat_toNat, BitVec.setWidth_eq]

theorem holds_chanOf {c : Config} (hf : WfFields c) (ht : WfTables c) {r : List Byte} (h : CanonicalInUse c r) :
    Encodable c (chanOf c r) ∧ Holds c r (chanOf c r) := by
  have hrxFits : FieldFits fRxType := by decide
  have htxFits : FieldFits fTxType := by decide
  obtain ⟨⟨-, hdw, hdf⟩, ⟨-, ham, hamf⟩, ⟨-, hbw, hbwf⟩, ⟨-, hrev, hrevf⟩, ⟨-, hpw, hpf⟩, ⟨-, hbclo, hbclof⟩,
    ⟨-, hpttid, hpttidf⟩, ⟨-, hdtmf, hdtmff⟩, -⟩ := hf
  have hdlt := getf_lt hdf r
  have hplt := getf_lt hpf r
  rw [hdw] at hdlt
  rw [hpw] at hplt
  obtain ⟨hdbad, hdcode, hdoff⟩ := duplexOf_canonical hdlt h.duplex
  obtain ⟨hpbad, hpcode⟩ := powerOf_canonical hplt
  obtain ⟨hstep, hidx⟩ := stepDec_canonical ht.2.2.2 h.step
  obtain ⟨hrx, hrxCode⟩ := toneCode_canonical ht hrxFits rfl h.rxTone
  obtain ⟨htx, htxCode⟩ := toneCode_canonical ht htxFits rfl h.txTone
  refine ⟨⟨h.freq, hdbad, hrx, htx, hpbad, List.contains_iff_mem.mpr hstep, h.scrambler⟩, rfl, ?_, ?_, ?_, ?_⟩
  · show wordAt r 4 = if duplexOf c r = .dupNone then 0 else wordAt r 4
    split
    · next hnone => exact hdoff hnone
    · rfl
  · exact (congrArg Prod.snd hrxCode).symm
  · exact (congrArg Prod.snd htxCode).symm
  · simp only [packFields, List.forall_mem_cons, packedOf, chanOf, hrxCode, htxCode, hidx, BitVec.ofNat_toNat]
    exact ⟨(setWidth_getf_setWidth hrxFits rfl r).symm, (setWidth_getf_setWidth htxFits rfl r).symm,
      (ofNat_eq_getf hdcode).symm, (bitByte_getBit hamf ham r).symm, (bitByte_getBit hbwf hbw r).symm,
      (bitByte_getBit hrevf hrev r).symm, (ofNat_eq_getf hpcode).symm, (bitByte_getBit hbclof hbclo r).symm,
      (setWidth_getf_setWidth hpttidf hpttid r).symm, (bitByte_getBit hdtmff hdtmf r).symm,
      (setWidth_getf_setWidth fStep_fits rfl r).symm, trivial, List.forall_mem_nil _⟩

end Sys2Proof.Machine
end

section
/-! What `CH.ENCODE` and `CH.ERASE` of a channel in range do to the image (45_channel_record.md R175, R176, R181;
20_memory.md R45, R47). -/

namespace Sys2Proof.Machine

theorem exec_chEncode_ok {n : Nat} {ch : Channel} {s u : State} (hb : s.busy = false)
    (h : ({ s with busy := true } : State).encodeChannel n ch = .ok u) :
    exec (.chEncode n ch) s = .next (u.succeed .done) := by
  rw [exec, execChEncode, issue_idle hb, h, map_ok, commit_ok]

/-- Where the record of a channel stands in the image (20_memory.md R47). -/
theorem record_in_image {c : Config} (h : TablesInImage c) {n : Nat} (h1 : 1 ≤ n) (h2 : n ≤ 214) :
    c.chBase + 16 * (n - 1) + 16 ≤ Config.imgSize := by
  obtain ⟨hch, -⟩ := h
  simp only [Config.chSlots] at hch
  omega

theorem name_in_image {c : Config} (h : TablesInImage c) {n : Nat} (h1 : 1 ≤ n) (h2 : n ≤ 200) :
    c.nameBase + 16 * (n - 1) + 16 ≤ Config.imgSize := by
  obtain ⟨-, hname⟩ := h
  simp only [Config.nameSlots] at hname
  omega

/-- `CH.ENCODE` of a channel that fails no check: one write of the packed record (R175). -/
theorem exec_chEncode_encodable {n : Nat} {ch : Chan} {s : State} (hb : s.busy = false) (hi : TablesInImage s.cfg)
    (h1 : 1 ≤ n) (h2 : n ≤ 214) (hch : Encodable s.cfg ch) :
    exec (.chEncode n (.chan ch)) s =
      .next ((s.wrBytes (s.cfg.chBase + 16 * (n - 1))
        (packRecord s.cfg (s.rdBytes (s.cfg.chBase + 16 * (n - 1)) 16) ch (packedOf s.cfg ch))).answered .done) := by
  have hlen := packRecord_length (c := s.cfg) (rdBytes_length s (s.cfg.chBase + 16 * (n - 1)) 16) ch (packedOf s.cfg ch)
  have haddr := record_in_image hi h1 h2
  refine (exec_chEncode_ok hb ?_).trans (congrArg Host.Outcome.next (busy_wrBytes_succeed hb _ _ _))
  rw [State.encodeChannel, channelSlot_ok h1 h2, bind_ok, validate_of_encodable hch, bind_ok, chanAddr,
    memReadBytes_setBusy, memReadBytes_eq, if_pos haddr, bind_ok, memWriteBytes_eq, hlen, if_pos haddr]

theorem wrBytes_storedFrom (s : State) (a : Nat) (bs : List Byte) (r : Result) :
    ((s.wrBytes a bs).answered r).StoredFrom s r := rfl

theorem wrBytes_wrBytes_storedFrom (s : State) (a a' : Nat) (bs bs' : List Byte) (r : Result) :
    (((s.wrBytes a bs).wrBytes a' bs').answered r).StoredFrom s r := rfl

/-- What `CH.ENCODE` of a channel that fails no check does to the image. -/
theorem exec_chEncode_stores {n a : Nat} {ch : Chan} {s : State} (hb : s.busy = false) (hi : TablesInImage s.cfg)
    (hw : s.ImageWf) (h1 : 1 ≤ n) (h2 : n ≤ 214) (ha : a = s.cfg.chBase + 16 * (n - 1)) (hch : Encodable s.cfg ch) :
    ∃ t, exec (.chEncode n (.chan ch)) s = .next t ∧ t.StoredFrom s .done ∧
      t.BytesFrom s a (packRecord s.cfg (s.rdBytes a 16) ch (packedOf s.cfg ch)) := by
  have hexec := exec_chEncode_encodable hb hi h1 h2 hch
  have himage := record_in_image hi h1 h2
  have hlen := packRecord_length (c := s.cfg) (rdBytes_length s a 16) ch (packedOf s.cfg ch)
  rw [← ha] at hexec himage
  generalize packRecord s.cfg (s.rdBytes a 16) ch (packedOf s.cfg ch) = r at hexec hlen
  refine ⟨_, hexec, wrBytes_storedFrom s a r .done, fun x => ?_⟩
  rw [rd_answered, bytesFrom_wrBytes hw (hlen ▸ himage)]

theorem storedFrom_busy {s t : State} {r : Result} (h : t.StoredFrom s r) : t.busy = s.busy := by
  rw [State.StoredFrom] at h
  rw [h]

theorem storedFrom_cfg {s t : State} {r : Result} (h : t.StoredFrom s r) : t.cfg = s.cfg := by
  rw [State.StoredFrom] at h
  rw [h]

/-- An answer before is forgotten. -/
theorem storedFrom_of_answered {s t : State} {q r : Result} (h : t.StoredFrom (s.answered q) r) : t.StoredFrom s r := h

/-- The bytes written are read back. -/
theorem rdBytes_of_bytesFrom {s t : State} {a n : Nat} {bs : List Byte} (h : t.BytesFrom s a bs) (hn : bs.length = n) :
    t.rdBytes a n = bs := by
  refine list_ext_byteAt (by rw [rdBytes_length, hn]) fun i hi => ?_
  rw [rdBytes_length] at hi
  rw [byteAt_rdBytes _ _ _ _ hi, h, if_pos (by omega), Nat.add_sub_cancel_left]

theorem rd_of_bytesFrom_outside {s t : State} {a x : Nat} {bs : List Byte} (h : t.BytesFrom s a bs)
    (hx : ¬ (a ≤ x ∧ x < a + bs.length)) : t.rd x = s.rd x := by rw [h, if_neg hx]

/-- Writing the bytes that stand there changes no byte. -/
theorem rd_of_bytesFrom_rdBytes {s t : State} {a n : Nat} (h : t.BytesFrom s a (s.rdBytes a n)) (x : Nat) :
    t.rd x = s.rd x := by
  rw [h, rdBytes_length]
  split
  · next hx => rw [byteAt_rdBytes _ _ _ _ (by omega), Nat.add_sub_cancel' hx.1]
  · rfl

/-- The state after `CH.ERASE` of a channel in range, but for `ERR` and the answer (R176). -/
def State.erased (s : State) (n : Nat) : State :=
  if n ≤ 200 then
    (s.wrBytes (s.cfg.chBase + 16 * (n - 1)) erasedRecord).wrBytes (s.cfg.nameBase + 16 * (n - 1)) erasedRecord
  else s.wrBytes (s.cfg.chBase + 16 * (n - 1)) erasedRecord

theorem eraseChannel_eq_erased {n : Nat} {s : State} (hi : TablesInImage s.cfg) (h1 : 1 ≤ n) (h2 : n ≤ 214) :
    s.eraseChannel n = .ok (s.erased n) := by
  have hrecord : chanAddr s.cfg (n - 1) + erasedRecord.length ≤ Config.imgSize := record_in_image hi h1 h2
  rw [State.eraseChannel, channelSlot_ok h1 h2, bind_ok, memWriteBytes_eq, if_pos hrecord, bind_ok, State.erased]
  by_cases hn : n ≤ 200
  · have hname : nameAddr s.cfg (n - 1) + erasedRecord.length ≤ Config.imgSize := name_in_image hi h1 hn
    rw [if_pos hn, if_pos hn, memWriteBytes_eq, if_pos hname]
    rfl
  · rw [if_neg hn, if_neg hn]
    rfl

theorem busy_erased_succeed {s : State} (h : s.busy = false) (n : Nat) (r : Result) :
    (({ s with busy := true } : State).erased n).succeed r = (s.erased n).answered r := by
  rw [State.erased, State.erased]
  split
  · cases s; subst h; rfl
  · exact busy_wrBytes_succeed h _ _ r

theorem exec_chErase {n : Nat} {s : State} (hb : s.busy = false) (hi : TablesInImage s.cfg) (h1 : 1 ≤ n) (h2 : n ≤ 214) :
    exec (.chErase n) s = .next ((s.erased n).answered .done) := by
  rw [← exec_chEncode_empty, ← busy_erased_succeed hb]
  exact exec_chEncode_ok hb (eraseChannel_eq_erased hi h1 h2)

theorem byteAt_erasedRecord {i : Nat} (h : i < 16) : byteAt erasedRecord i = 0xFF := by
  rw [byteAt, List.getD_eq_getElem _ _ h]
  exact List.getElem_replicate h

/-- Sixteen bytes erased in the image. -/
theorem rd_wrBytes_erasedRecord {s : State} (h : s.ImageWf) {a : Nat} (ha : a + 16 ≤ Config.imgSize) (x : Nat) :
    (s.wrBytes a erasedRecord).rd x = if a ≤ x ∧ x < a + 16 then 0xFF else s.rd x := by
  have hlen : erasedRecord.length = 16 := rfl
  rw [rd_wrBytes h x ha, hlen]
  split
  · next hx => exact byteAt_erasedRecord (by omega)
  · rfl

theorem ite_ite_same {α : Type} (p q : Prop) [Decidable p] [Decidable q] (a b : α) :
    (if q then a else if p then a else b) = if p ∨ q then a else b := by
  by_cases hq : q <;> simp [hq]

/-- The image after `CH.ERASE` (R176). -/
theorem rd_erased {n : Nat} {s : State} (h : s.ImageWf) (hi : TablesInImage s.cfg) (h1 : 1 ≤ n) (h2 : n ≤ 214) (x : Nat) :
    (s.erased n).rd x =
      if (s.cfg.chBase + 16 * (n - 1) ≤ x ∧ x < s.cfg.chBase + 16 * (n - 1) + 16) ∨
        (n ≤ 200 ∧ s.cfg.nameBase + 16 * (n - 1) ≤ x ∧ x < s.cfg.nameBase + 16 * (n - 1) + 16) then 0xFF else s.rd x := by
  have hrecord := rd_wrBytes_erasedRecord h (record_in_image hi h1 h2) x
  rw [State.erased]
  by_cases hn : n ≤ 200
  · have hwf : (s.wrBytes (s.cfg.chBase + 16 * (n - 1)) erasedRecord).ImageWf :=
      (wrBytes_grownFrom (grownFrom_refl h) (record_in_image hi h1 h2)).image
    rw [if_pos hn, rd_wrBytes_erasedRecord hwf (name_in_image hi h1 hn), hrecord]
    simp only [hn, true_and]
    exact ite_ite_same ..
  · rw [if_neg hn, hrecord]
    simp only [hn, false_and, or_false]

theorem erased_storedFrom (s : State) (n : Nat) (r : Result) : ((s.erased n).answered r).StoredFrom s r := by
  rw [State.erased]
  split
  · exact wrBytes_wrBytes_storedFrom ..
  · exact wrBytes_storedFrom ..

end Sys2Proof.Machine
end

section
/-! `CH.ISEMPTY` and `CH.DECODE` on the image (45_channel_record.md R152, R172, R173, R179). -/

namespace Sys2Proof.Machine

theorem emptyFreq_wordAt_iff (r : List Byte) (i : Nat) :
    emptyFreq (wordAt r i) = true ↔ (∀ j, j < 4 → byteAt r (i + j) = 0x00) ∨ (∀ j, j < 4 → byteAt r (i + j) = 0xFF) := by
  have hzero : (0 : Word) = le32 0x00 0x00 0x00 0x00 := rfl
  have hones : (0xFFFFFFFF : Word) = le32 0xFF 0xFF 0xFF 0xFF := rfl
  rw [emptyFreq_iff, hzero, hones, wordAt, le32_inj, le32_inj]
  simp only [Nat.forall_lt_succ_right, Nat.not_lt_zero, false_implies, implies_true, true_and, Nat.add_zero, and_assoc]

theorem exec_chIsEmpty {s : State} {n : Nat} (hb : s.busy = false) (hi : TablesInImage s.cfg) (h1 : 1 ≤ n) (h2 : n ≤ 214) :
    exec (.chIsEmpty n) s =
      .next (s.answered (.bool (emptyFreq (wordAt (s.rdBytes (s.cfg.chBase + 16 * (n - 1)) 16) 0)))) := by
  have hrecord := channelRecord_ok (s := { s with busy := true }) hi h1 h2
  rw [rdBytes_setBusy] at hrecord
  exact issue_read_ok hb (fun r => .bool (emptyFreq (wordAt r 0))) (f := fun t => t.channelRecord n) hrecord

/-- Settles O21: the sentinels are the words of four equal bytes. -/
theorem emptyBySentinel : Obligations.EmptyBySentinel := by
  intro n s hb hi
  refine ⟨opselIs_of_encode rfl, fun h1 h2 => ⟨_, exec_chIsEmpty hb hi h1 h2, ?_⟩, exec_chIsEmpty_badNumber hb⟩
  have hbyte {i : Nat} (h : i < 4) : byteAt (s.rdBytes (s.cfg.chBase + 16 * (n - 1)) 16) (0 + i) =
      s.rd (s.cfg.chBase + 16 * (n - 1) + i) := by rw [Nat.zero_add, byteAt_rdBytes _ _ _ _ (by omega)]
  rw [emptyFreq_wordAt_iff]
  exact or_congr (forall₂_congr fun i h => by rw [hbyte h]) (forall₂_congr fun i h => by rw [hbyte h])

/-- Records that agree on bytes 0 to 9 and on every field read as the same channel. -/
theorem channelOf_congr {c : Config} {r r' : List Byte} (hbytes : ∀ i, i < 10 → byteAt r i = byteAt r' i)
    (hfields : ∀ f ∈ allDescs c, getf r f = getf r' f) : channelOf c r = channelOf c r' := by
  simp only [allDescs, flagDescs, List.forall_mem_append, List.forall_mem_cons] at hfields
  obtain ⟨⟨⟨hrx, htx, -⟩, hduplex, ham, hbw, hrev, hpower, hbclo, hpttid, hdtmf, -⟩, hstep, hscr, -⟩ := hfields
  have hword {i : Nat} (hi : i + 3 < 10) : wordAt r i = wordAt r' i := by
    rw [wordAt, wordAt, hbytes i (by omega), hbytes (i + 1) (by omega), hbytes (i + 2) (by omega), hbytes (i + 3) hi]
  simp only [channelOf, chanOf, duplexOf, powerOf, getBit, stepDec_byteAt, hword (i := 0) (by decide),
    hword (i := 4) (by decide), hbytes 8 (by decide), hbytes 9 (by decide), hrx, htx, hduplex, ham, hbw, hrev, hpower, hbclo,
    hpttid, hdtmf, hstep, hscr]

/-- Settles O30: every field is read from its own bits. -/
theorem uncoveredBitsNotRead : Obligations.UncoveredBitsNotRead := by
  intro n a s s' hb hb' hcfg hi hf h1 h2 ha hbytes hbits
  have hread (t : State) {i : Nat} (h : i < 16) : byteAt (t.rdBytes a 16) i = t.rd (a + i) := byteAt_rdBytes t a 16 i h
  have hsame : channelOf s.cfg (s.rdBytes a 16) = channelOf s.cfg (s'.rdBytes a 16) := by
    refine channelOf_congr (fun i h => ?_) fun f hmem => ?_
    · rw [hread s (by omega), hread s' (by omega), hbytes i h]
    · obtain ⟨hlo, hhi, hfits⟩ := allDescs_inside hf f hmem
      refine getf_congr hfits fun i j hj hc => ?_
      obtain ⟨rfl, -⟩ := (covers_iff f i j).mp hc
      rw [hread s hhi, hread s' hhi, hbits _ j hlo hhi hj ⟨f, hmem, hc⟩]
  refine ⟨channelOf s.cfg (s.rdBytes a 16), by rw [exec_chDecode hb hi h1 h2, ha], ?_⟩
  rw [exec_chDecode hb' (hcfg ▸ hi) h1 h2, ← hcfg, ← ha, hsame]

/-- The value of a one-bit field (R8). -/
theorem getBit_eq {f : FieldDesc} (hf : FieldFits f) (r : List Byte) : getBit r f = (fieldNat r f == 1) := by
  rw [getBit, ← getf_toNat hf, Bool.eq_iff_iff, beq_iff_eq, beq_iff_eq, ← BitVec.toNat_inj]
  rfl

theorem setWidth_getf {f : FieldDesc} (hf : FieldFits f) (w : Nat) (r : List Byte) :
    (getf r f).setWidth w = BitVec.ofNat w (fieldNat r f) := by rw [← getf_toNat hf, BitVec.ofNat_toNat]

/-- The duplex in terms of the field's number (R162). -/
theorem duplexOf_eq {c : Config} (hf : FieldFits c.fDuplex) (r : List Byte) :
    duplexOf c r =
      if le32Nat r 4 = 0 then .dupNone
      else if fieldNat r c.fDuplex = c.dupNone then .dupNone
      else if fieldNat r c.fDuplex = c.dupPlus then .plus
      else if fieldNat r c.fDuplex = c.dupMinus then .minus
      else .reserved (BitVec.ofNat 2 (fieldNat r c.fDuplex)) := by
  have hzero : wordAt r 4 = 0 ↔ le32Nat r 4 = 0 := wordAt_eq_iff r 4 0
  simp only [duplexOf, getf_toNat hf, hzero, reservedCode]

/-- The power in terms of the field's number (R164). -/
theorem powerOf_eq {c : Config} (hf : FieldFits c.fPower) (r : List Byte) :
    powerOf c r =
      if fieldNat r c.fPower = c.pwrLow then .low
      else if fieldNat r c.fPower = c.pwrMed then .med
      else if fieldNat r c.fPower = c.pwrHigh then .high
      else .reserved (BitVec.ofNat 2 (fieldNat r c.fPower)) := by
  simp only [powerOf, getf_toNat hf, reservedCode]

theorem wordAt_eq_ofNat (r : List Byte) (i : Nat) : wordAt r i = BitVec.ofNat 32 (le32Nat r i) := by
  rw [← wordAt_toNat, BitVec.ofNat_toNat, BitVec.setWidth_eq]

theorem emptyFreq_wordAt_iff_le32Nat (r : List Byte) (i : Nat) :
    emptyFreq (wordAt r i) = true ↔ le32Nat r i = 0 ∨ le32Nat r i = 0xFFFFFFFF := by
  rw [emptyFreq_iff, wordAt_eq_iff, wordAt_eq_iff]
  rfl

/-- Settles O23: every field of the channel is a number read from the record. -/
theorem channelDecodeFields : Obligations.ChannelDecodeFields := by
  intro n r s hb hi hf h1 h2 hr
  have hexec := exec_chDecode hb hi h1 h2
  rw [← hr] at hexec
  refine ⟨opselIs_of_encode rfl, fun m => exec_chDecode_badNumber hb, fun hempty => ?_, fun hne0 hne1 => ?_⟩
  · rw [hexec, channelOf, if_pos ((emptyFreq_wordAt_iff_le32Nat r 0).mpr hempty)]
  · have hused : emptyFreq (wordAt r 0) ≠ true := fun h => ((emptyFreq_wordAt_iff_le32Nat r 0).mp h).elim hne0 hne1
    have hrx : FieldFits fRxType := by decide
    have htx : FieldFits fTxType := by decide
    refine ⟨_, _, _, exec_toneDec _ _ hb, exec_toneDec _ _ hb, exec_stepDec _ hb, ?_⟩
    obtain ⟨⟨-, -, hduplex⟩, ⟨-, -, ham⟩, ⟨-, -, hbw⟩, ⟨-, -, hrev⟩, ⟨-, -, hpower⟩, ⟨-, -, hbclo⟩, ⟨-, -, hpttid⟩,
      ⟨-, -, hdtmf⟩, ⟨-, -, hscr⟩, -⟩ := hf
    rw [hexec, channelOf, if_neg hused, chanOf, wordAt_eq_ofNat, wordAt_eq_ofNat, duplexOf_eq hduplex, powerOf_eq hpower,
      setWidth_getf hrx, setWidth_getf htx, setWidth_getf hpttid, getBit_eq ham, getBit_eq hbw, getBit_eq hrev,
      getBit_eq hbclo, getBit_eq hdtmf, ← BitVec.setWidth_eq (getf r s.cfg.fScr), setWidth_getf hscr]
    rfl

end Sys2Proof.Machine
end

section
/-! Erasing a channel and storing one (45_channel_record.md R175, R176, R179, R181), and the two round trips (R177, R180). -/

namespace Sys2Proof.Machine

/-! ### Erasing (R176, R181) -/

theorem exec_nameDecode {s : State} {n : Nat} (hb : s.busy = false) (hi : TablesInImage s.cfg) (h1 : 1 ≤ n) (h2 : n ≤ 200) :
    exec (.nameDecode n) s =
      .next (s.answered (.bytes (textOf 16 (s.rdBytes (s.cfg.nameBase + 16 * (n - 1)) 16)))) := by
  refine issue_read_ok hb .bytes (f := fun t => t.nameDecode n) ?_
  rw [State.nameDecode, nameSlot_ok h1 h2, bind_ok, nameAddr, memReadBytes_setBusy, memReadBytes_eq,
    if_pos (name_in_image hi h1 h2), bind_ok]
  rfl

theorem rdBytes_eq_erasedRecord {s : State} {a : Nat} (h : ∀ x, a ≤ x → x < a + 16 → s.rd x = 0xFF) :
    s.rdBytes a 16 = erasedRecord := by
  refine list_ext_byteAt (rdBytes_length ..) fun i hi => ?_
  rw [rdBytes_length] at hi
  rw [byteAt_rdBytes _ _ _ _ hi, byteAt_erasedRecord hi]
  exact h _ (by omega) (by omega)

/-- Settles O27: both forms write `State.erased`, and a record of sixteen `0xFF` reads as empty. -/
theorem eraseWritesBothRecords : Obligations.EraseWritesBothRecords := by
  intro n s hb hi hw h1 h2
  have hexec := exec_chErase hb hi h1 h2
  have hstored := erased_storedFrom s n .done
  have hrd := rd_erased hw hi h1 h2
  have hbusy := (storedFrom_busy hstored).trans hb
  have hcfg := storedFrom_cfg hstored
  refine ⟨opselIs_of_encode rfl, fun m h => ⟨exec_chErase_badNumber hb h, exec_chEncode_badNumber hb h .empty⟩,
    (s.erased n).answered .done, hexec, hexec, hstored, hrd, ?_⟩
  have hrecord : ((s.erased n).answered .done).rdBytes (s.cfg.chBase + 16 * (n - 1)) 16 = erasedRecord :=
    rdBytes_eq_erasedRecord fun x hlo hhi => (hrd x).trans (if_pos (.inl ⟨hlo, hhi⟩))
  refine ⟨?_, ?_, fun hn => ?_⟩
  · rw [exec_chIsEmpty hbusy (hcfg ▸ hi) h1 h2, hcfg, hrecord]
    rfl
  · rw [exec_chDecode hbusy (hcfg ▸ hi) h1 h2, hcfg, hrecord]
    rfl
  · have hname : ((s.erased n).answered .done).rdBytes (s.cfg.nameBase + 16 * (n - 1)) 16 = erasedRecord :=
      rdBytes_eq_erasedRecord fun x hlo hhi => (hrd x).trans (if_pos (.inr ⟨hn, hlo, hhi⟩))
    rw [exec_nameDecode hbusy (hcfg ▸ hi) h1 hn, hcfg, hname]
    rfl

/-! ### Encoding (R175) -/

/-- A field of a record that holds a channel, as a number. -/
theorem fieldNat_of_holds {c : Config} (hf : WfFields c) {r : List Byte} {ch : Chan} (h : Holds c r ch) :
    ∀ x ∈ packFields c ch (packedOf c ch), fieldNat r x.1 = x.2.toNat := fun x hx => by
  obtain ⟨-, -, hfits⟩ := allDescs_inside hf _ (desc_mem_allDescs hx)
  rw [← getf_toNat hfits, h.fields x hx]

theorem bitByte_toNat (b : Bool) : (bitByte b).toNat = b.toNat := by cases b <;> rfl

/-- A bit that no field covers keeps the value it had in the record that the encoder starts from (R175, R179). -/
theorem getLsbD_packRecord {c : Config} (hf : WfFields c) {r : List Byte} (h : r.length = 16) (ch : Chan) (p : Packed)
    {i j : Nat} (hi : 10 ≤ i) (hj : j < 8) (hc : ∀ f ∈ allDescs c, covers f i j = false) :
    (byteAt (packRecord c r ch p) i).getLsbD j = (byteAt (startRecord c r) i).getLsbD j := by
  have hlen := putBytes_length (startRecord_length (c := c) h) ch p
  rw [packRecord_eq, getLsbD_putFields (hlen ▸ packFields_inside hf ch p) hj fun x hx => hc _ (desc_mem_allDescs hx),
    byteAt_putBytes _ _ _ hi]

theorem toneStored_of_code {c : Config} (h : WfTables c) {t : Tone} (ht : toneKnown c t = true) {ty : Nat} {code : Byte}
    (hty : ty = ((toneCode c t).1.setWidth 8).toNat) (hcode : code = (toneCode c t).2) : ToneStored c t ty code := by
  rw [hty, hcode, setWidth_byte_toNat (by decide)]
  exact (toneStored_iff h t _ _).mpr ⟨ht, rfl⟩

theorem stepEntry_of_code {c : Config} {v : StepVal} (h : c.step.contains v = true) {i : Nat}
    (hi : i = ((BitVec.ofNat 3 (c.step.idxOf v)).setWidth 8).toNat) : c.step[i]? = some v := by
  have hmem := List.contains_iff_mem.mp h
  rw [hi, setWidth_byte_toNat (by decide), ofNat_idxOf_step hmem]
  exact List.getElem?_idxOf hmem

/-- The bits that the encoder starts from: those of the record, or zeros where `zero_first` cleared an erased one (R175). -/
theorem getLsbD_startRecord (s : State) (a : Nat) {i : Nat} (hi : i < 16) (j : Nat) :
    (byteAt (startRecord s.cfg (s.rdBytes a 16)) i).getLsbD j =
      if s.cfg.chEncodeOnEmpty = .zeroFirst ∧ s.rdBytes a 16 = List.replicate 16 0xFF then false
      else (s.rd (a + i)).getLsbD j := by
  rw [startRecord, ← byteAt_rdBytes s a 16 i hi, erasedRecord, rep]
  split
  · rw [byteAt, rep, List.getD_replicate _ hi]
    exact BitVec.getLsbD_zero
  · rfl

/-- Settles O29: the packed record holds the channel, and outside the fields it is the record before. -/
theorem encodeStoresEveryField : Obligations.EncodeStoresEveryField := by
  intro n a ch s hb hi hf ht hw h1 h2 ha hfail
  have hch := encodable_of_firstFailure hfail
  obtain ⟨t, hexec, hstored, hbytes⟩ := exec_chEncode_stores hb hi hw h1 h2 ha hch
  have hbefore := rdBytes_length s a 16
  have hlen := packRecord_length (c := s.cfg) hbefore ch (packedOf s.cfg ch)
  have hholds := holds_packRecord hf hbefore hch
  have hkept {i j : Nat} (hlo : 10 ≤ i) := getLsbD_packRecord (i := i) (j := j) hf hbefore ch (packedOf s.cfg ch) hlo
  generalize packRecord s.cfg (s.rdBytes a 16) ch (packedOf s.cfg ch) = r at hbytes hlen hholds hkept
  have hread := rdBytes_of_bytesFrom hbytes hlen
  have houtside (x : Nat) (hx : ¬ (a ≤ x ∧ x < a + 16)) : t.rd x = s.rd x :=
    rd_of_bytesFrom_outside hbytes (by rwa [hlen])
  have hnat := fieldNat_of_holds hf hholds
  simp only [packFields, List.forall_mem_cons, bitByte_toNat] at hnat
  obtain ⟨hrx, htx, hduplex, ham, hbw, hrev, hpower, hbclo, hpttid, hdtmf, hstep, hscr, -⟩ := hnat
  refine ⟨opselIs_of_encode rfl, t, r, hexec, hread.symm, hstored, houtside, ?_, ?_,
    toneStored_of_code ht hch.rxTone hrx hholds.rxCode, toneStored_of_code ht hch.txTone htx hholds.txCode,
    hduplex.trans (duplexCode_byte hf _), ham, hbw, hrev,
    hpower.trans (powerCode_byte hf _), hbclo, hpttid.trans (setWidth_byte_toNat (by decide) _), hdtmf,
    stepEntry_of_code hch.step hstep, hscr, fun i j hlo hhi hj hc => ?_⟩
  · rw [← wordAt_toNat, hholds.freq]
  · rw [← wordAt_toNat, hholds.offset, packedOf, apply_ite BitVec.toNat]
    rfl
  · rw [hkept hlo hj hc, getLsbD_startRecord s a hhi]

/-! ### The round trips (R177, R180) -/

/-- A channel that encodes with `ERR = OK` has a number in range and fails no check (R174, R175). -/
theorem encodable_of_exec_ok {n : Nat} {ch : Chan} {s t : State} (hb : s.busy = false)
    (h : exec (.chEncode n (.chan ch)) s = .next t) (he : t.err = ⟨0, 0⟩) : 1 ≤ n ∧ n ≤ 214 ∧ Encodable s.cfg ch := by
  have hraised {x : Cause} (hx : exec (.chEncode n (.chan ch)) s = .next (s.failed x.kind x.info x)) : False := by
    obtain rfl : s.failed x.kind x.info x = t := Host.Outcome.next.inj (hx.symm.trans h)
    have hkind : x.kind = 0 := congrArg ErrReg.kind he
    cases x <;> cases hkind
  have hrange : ¬ (n < 1 ∨ 214 < n) := fun hn => hraised (x := .badChannel) (exec_chEncode_badNumber hb hn _)
  have h1 : 1 ≤ n := by omega
  have h2 : n ≤ 214 := by omega
  obtain ⟨x, -, hx⟩ | ⟨-, hch⟩ := validate_cases s.cfg ch
  · exact (hraised (exec_chEncode_error hb (encodeChannel_invalid h1 h2 hx))).elim
  · exact ⟨h1, h2, hch⟩

/-- Settles O31: the record that `CH.ENCODE` wrote holds the channel, and a record that holds a channel reads as it. -/
theorem channelValueRoundTrip : Obligations.ChannelValueRoundTrip := by
  intro n ch s t hb hi hf ht hw hexec herr
  obtain ⟨h1, h2, hch⟩ := encodable_of_exec_ok hb hexec herr
  obtain ⟨u, hu, hstored, hbytes⟩ := exec_chEncode_stores hb hi hw h1 h2 rfl hch
  obtain rfl : t = u := Host.Outcome.next.inj (hexec.symm.trans hu)
  have hbefore := rdBytes_length s (s.cfg.chBase + 16 * (n - 1)) 16
  have hread := rdBytes_of_bytesFrom hbytes (packRecord_length hbefore _ _)
  have hbusy := (storedFrom_busy hstored).trans hb
  have hcfg := storedFrom_cfg hstored
  rw [exec_chDecode hbusy (hcfg ▸ hi) h1 h2, hcfg, hread, channelOf_of_holds hf ht hch (holds_packRecord hf hbefore hch)]
  rfl

/-- An erased record that reads as empty is erased again: its bytes and all but the bytes of its name stay (R178, R181). -/
theorem rd_erased_of_erasedRecord {n a : Nat} {s : State} (hw : s.ImageWf) (hi : TablesInImage s.cfg) (h1 : 1 ≤ n)
    (h2 : n ≤ 214) (ha : a = s.cfg.chBase + 16 * (n - 1)) (he : s.rdBytes a 16 = erasedRecord) {x : Nat}
    (hx : 200 < n ∨ (a ≤ x ∧ x < a + 16) ∨ x < s.cfg.nameBase + 16 * (n - 1) ∨ s.cfg.nameBase + 16 * (n - 1) + 16 ≤ x) :
    (s.erased n).rd x = s.rd x := by
  rw [rd_erased hw hi h1 h2, ← ha]
  by_cases hrecord : a ≤ x ∧ x < a + 16
  · have hbyte := byteAt_rdBytes s a 16 (x - a) (by omega)
    rw [he, byteAt_erasedRecord (by omega), Nat.add_sub_cancel' hrecord.1] at hbyte
    rw [if_pos (.inl hrecord), hbyte]
  · rw [if_neg (by omega)]

/-- Settles O32: an erased record is erased again; any other canonical record holds the channel it reads as, and packing that
channel over it changes nothing. -/
theorem channelImageRoundTrip : Obligations.ChannelImageRoundTrip := by
  intro n a s hb hi hf ht hw h1 h2 ha hcanonical
  have hdecode := exec_chDecode hb hi h1 h2
  rw [← ha] at hdecode
  by_cases he : s.rdBytes a 16 = erasedRecord
  · have hempty : channelOf s.cfg (s.rdBytes a 16) = .empty := by rw [he]; rfl
    have hencode := exec_chErase (s := s.answered (.channel .empty)) (n := n) hb hi h1 h2
    rw [hempty] at hdecode
    refine ⟨.empty, _, _, hdecode, rfl, hencode, storedFrom_of_answered (erased_storedFrom ..), fun x hx => ?_⟩
    exact rd_erased_of_erasedRecord (s := s.answered (.channel .empty)) hw hi h1 h2 ha
      ((rdBytes_answered ..).trans he) (hx.resolve_left fun hne => hne he)
  · have hinuse := (canonicalRecord_cases hcanonical).resolve_left he
    obtain ⟨hch, hholds⟩ := holds_chanOf hf ht hinuse
    rw [channelOf, if_neg (Bool.eq_false_iff.mp hinuse.freq)] at hdecode
    obtain ⟨u, hencode, hstored, hbytes⟩ :=
      exec_chEncode_stores (s := s.answered (.channel (.chan (chanOf s.cfg (s.rdBytes a 16))))) hb hi hw h1 h2 ha hch
    rw [rdBytes_answered, answered_cfg, packRecord_of_holds hf (rdBytes_length ..) he hholds] at hbytes
    refine ⟨_, _, u, hdecode, rfl, hencode, storedFrom_of_answered hstored, fun x _ => ?_⟩
    exact rd_of_bytesFrom_rdBytes hbytes x

end Sys2Proof.Machine
end

section
/-! Names and logo lines (46_names_fm_settings.md R190 to R195, R218, R223): what the text of a record is, what the two encodes
store and refuse, and the way back. -/

namespace Sys2Proof.Machine

/-! ### The text of a record (R191, R218) -/

/-- Two texts of one record: a later end would stand on a byte the other one drops or never reaches. -/
theorem isTextOf_length_le {o o' r : List Byte} (h : IsTextOf o r) (h' : IsTextOf o' r) : o'.length ≤ o.length := by
  obtain ⟨cut, hcut, -, hstop, -, -, hspaces, -⟩ := h
  obtain ⟨cut', hcut', hkept', -, hle', -, -, hlast'⟩ := h'
  have hcuts : cut' ≤ cut := by
    by_contra hlt
    obtain ⟨hne0, hneFF⟩ := hkept' cut (by omega)
    exact (hstop (by omega)).elim hne0 hneFF
  by_contra hlt
  have hne : o' ≠ [] := List.ne_nil_of_length_pos (by omega)
  exact hlast' hne (hspaces _ (by omega) (by omega))

/-- A record has one text. -/
theorem isTextOf_unique {o o' r : List Byte} (h : IsTextOf o r) (h' : IsTextOf o' r) : o = o' := by
  have hlen : o.length = o'.length := le_antisymm (isTextOf_length_le h' h) (isTextOf_length_le h h')
  obtain ⟨-, -, -, -, -, htake, -⟩ := h
  obtain ⟨-, -, -, -, -, htake', -⟩ := h'
  rw [htake, htake', hlen]

theorem printable_textByte {b : Byte} (h : 0x20 ≤ b.toNat ∧ b.toNat ≤ 0x7E) : b ≠ 0x00 ∧ b ≠ 0xFF := by
  constructor
  · rintro rfl
    exact absurd h.1 (by decide)
  · rintro rfl
    exact absurd h.2 (by decide)

/-- Any spaces behind a text, and `0xFF` behind them, are not part of it (R191, R195). -/
theorem isTextOf_padded {txt : List Byte} {sp : Nat} (hp : Printable (txt ++ List.replicate sp 0x20))
    (hlast : txt = [] ∨ byteAt txt (txt.length - 1) ≠ 0x20) (m j : Nat) :
    IsTextOf txt (txt ++ List.replicate sp 0x20 ++ List.replicate m 0x20 ++ List.replicate j 0xFF) := by
  have hspaces : txt ++ List.replicate sp 0x20 ++ List.replicate m 0x20 = txt ++ List.replicate (sp + m) 0x20 := by
    rw [List.append_assoc, List.replicate_append_replicate]
  rw [hspaces]
  refine isTextOf_append (fun b hb => ?_) (fun b => List.eq_of_mem_replicate) (fun hne => ?_) fun hne => .inr ?_
  · obtain hmem | hmem := List.mem_append.mp hb
    · exact printable_textByte (hp b (List.mem_append_left _ hmem))
    · rw [List.eq_of_mem_replicate hmem]
      decide
  · have hpos := List.length_pos_of_ne_nil hne
    have hbyte := hlast.resolve_left hne
    rwa [byteAt, List.getD_eq_getElem _ _ (by omega), ← List.getLast_eq_getElem hne] at hbyte
  · exact List.eq_of_mem_replicate (List.head_mem hne)

theorem take_rdBytes (s : State) (a : Nat) {m n : Nat} (h : m ≤ n) : (s.rdBytes a n).take m = s.rdBytes a m := by
  have hlen : ((s.rdBytes a n).take m).length = m := by rw [List.length_take, rdBytes_length, min_eq_left h]
  refine list_ext_byteAt (hlen.trans (rdBytes_length ..).symm) fun i hi => ?_
  rw [hlen] at hi
  rw [byteAt_rdBytes _ _ _ _ hi, ← byteAt_rdBytes s a n i (hi.trans_le h)]
  simp [byteAt, List.getD_eq_getElem?_getD, hi]

theorem nameText_isTextOf (s : State) (a : Nat) : IsTextOf (textOf 16 (s.rdBytes a 16)) (s.rdBytes a 16) :=
  textOf_isTextOf_self (rdBytes_length ..)

theorem logoText_isTextOf (s : State) (a : Nat) : IsTextOf (textOf 12 (s.rdBytes a 16)) (s.rdBytes a 12) := by
  rw [← take_rdBytes s a (by decide : 12 ≤ 16)]
  exact textOf_isTextOf 12 _

/-! ### Reading (R191, R218) -/

/-- Where `SETTINGS_MAP` puts a logo line (R218). -/
def logoLine (c : Config) (k : Nat) : Nat := if k = 1 then c.settingsMap.logo1 else c.settingsMap.logo2

theorem logoAddr_line {k : Nat} (h : k = 1 ∨ k = 2) (c : Config) : logoAddr c k = .ok (logoLine c k) := by
  obtain rfl | rfl := h <;> rfl

theorem logoAddr_bad {k : Nat} (h : ¬ (k = 1 ∨ k = 2)) (c : Config) : logoAddr c k = .error .badIndex := by
  obtain ⟨h1, h2⟩ := not_or.mp h
  rw [logoAddr, if_neg h1, if_neg h2]

theorem exec_logoDecode {s : State} {k : Nat} (hb : s.busy = false) (hk : k = 1 ∨ k = 2)
    (ha : logoLine s.cfg k + 16 ≤ Config.imgSize) :
    exec (.logoDecode k) s = .next (s.answered (.bytes (textOf 12 (s.rdBytes (logoLine s.cfg k) 16)))) := by
  refine issue_read_ok hb .bytes (f := fun t => t.logoDecode k) ?_
  rw [State.logoDecode, logoAddr_line hk, bind_ok, memReadBytes_setBusy, memReadBytes_eq, if_pos ha, bind_ok]
  rfl

theorem exec_logoDecode_badLine {s : State} {k : Nat} (hb : s.busy = false) (hk : ¬ (k = 1 ∨ k = 2)) :
    exec (.logoDecode k) s = .next (s.failed 5 10 .badIndex) :=
  issue_read_error hb .bytes (f := fun t => t.logoDecode k) (c := .badIndex)
    (by rw [State.logoDecode, logoAddr_bad hk, bind_error])

/-- Settles O33: the model's text of what it reads is the text of the record. -/
theorem nameAndLogoDecode : Obligations.NameAndLogoDecode := by
  rintro n k a s hb hi rfl ha
  refine ⟨⟨opselIs_of_encode rfl, fun h1 h2 => ?_, exec_nameDecode_badNumber hb⟩, opselIs_of_encode rfl, fun hk => ?_,
    fun h1 h2 => exec_logoDecode_badLine hb (not_or.mpr ⟨h1, h2⟩)⟩
  · exact ⟨_, nameText_isTextOf s _, exec_nameDecode hb hi h1 h2⟩
  · exact ⟨_, logoText_isTextOf s _, exec_logoDecode hb hk ha⟩

/-! ### Storing bytes -/

/-- An operation that comes down to one write of the image (20_memory.md R45). -/
theorem issue_store {s : State} {f : State → Except Cause State} {a : Nat} {bs : List Byte} (hb : s.busy = false)
    (hw : s.ImageWf) (ha : a + bs.length ≤ Config.imgSize)
    (hf : f { s with busy := true } = ({ s with busy := true } : State).memWriteBytes a bs) :
    ∃ t, issue s (fun t => t.commit ((f t).map fun u => (u, .done))) = .next t ∧ t.StoredFrom s .done ∧
      t.BytesFrom s a bs := by
  refine ⟨(s.wrBytes a bs).answered .done, ?_, wrBytes_storedFrom s a bs .done, bytesFrom_wrBytes hw ha⟩
  rw [issue_idle hb, hf, memWriteBytes_eq, if_pos ha, map_ok, commit_ok, busy_wrBytes_succeed hb]

/-! ### The checks on a text (R192, R193, R223) -/

theorem all_printable_iff (txt : List Byte) : txt.all printable = true ↔ Printable txt := by
  simp only [List.all_eq_true, printable_iff, Printable]

theorem checkText_ok {txt : List Byte} {w : Nat} (h : txt.length ≤ w) (hp : Printable txt) : checkText txt w = .ok () := by
  rw [checkText, if_neg h.not_gt, if_pos ((all_printable_iff txt).mpr hp)]

theorem checkText_long {txt : List Byte} {w : Nat} (h : w < txt.length) : checkText txt w = .error .badName := by
  rw [checkText, if_pos h]

theorem checkText_unprintable {txt : List Byte} {w : Nat} (h : txt.length ≤ w) (hp : ¬ Printable txt) :
    checkText txt w = .error .badChar := by
  rw [checkText, if_neg h.not_gt, if_neg (mt (all_printable_iff txt).mp hp)]

/-- The outcome `o` of an encode of `txt` on `s`: where `valid` says that the number or line exists, the bytes `bs` are stored
at `a` for a printable text of at most `w` bytes; `c` is raised for any other number or line, then come BAD_NAME and BAD_CHAR
(R192, R223). -/
structure StoresText (s : State) (o : Host.Outcome State Fault Refusal) (valid : Prop) (c : Cause) (w a : Nat)
    (txt bs : List Byte) : Prop where
  stores : valid → txt.length ≤ w → Printable txt → ∃ t, o = .next t ∧ t.StoredFrom s .done ∧ t.BytesFrom s a bs
  invalid : ¬ valid → o = .next (s.failed c.kind c.info c)
  long : valid → w < txt.length → o = .next (s.failed 5 8 .badName)
  unprintable : valid → txt.length ≤ w → ¬ Printable txt → o = .next (s.failed 5 9 .badChar)

theorem storesText_issue {s : State} {f : State → Except Cause State} {valid : Prop} {c : Cause} {w a : Nat}
    {txt bs : List Byte} (hb : s.busy = false) (hw : s.ImageWf)
    (ha : valid → txt.length ≤ w → a + bs.length ≤ Config.imgSize)
    (hinvalid : ¬ valid → f { s with busy := true } = .error c)
    (hvalid : valid → f { s with busy := true } =
      (checkText txt w >>= fun _ => ({ s with busy := true } : State).memWriteBytes a bs)) :
    StoresText s (issue s fun t => t.commit ((f t).map fun u => (u, .done))) valid c w a txt bs where
  stores hv hlen hp := issue_store hb hw (ha hv hlen) (by rw [hvalid hv, checkText_ok hlen hp, bind_ok])
  invalid hv := issue_commit_error hb (fun _ u => (u, .done)) (hinvalid hv)
  long hv hlen := issue_commit_error hb (f := f) (c := .badName) (fun _ u => (u, .done))
    (by rw [hvalid hv, checkText_long hlen, bind_error])
  unprintable hv hlen hp := issue_commit_error hb (f := f) (c := .badChar) (fun _ u => (u, .done))
    (by rw [hvalid hv, checkText_unprintable hlen hp, bind_error])

theorem err_failed_ne_ok (s : State) (c : Cause) : (s.failed c.kind c.info c).err ≠ ⟨0, 0⟩ := fun h => by
  have hkind : c.kind = 0 := congrArg ErrReg.kind h
  cases c <;> cases hkind

/-- An encode that left `ERR = OK` passed every check. -/
theorem StoresText.of_ok {s t : State} {o : Host.Outcome State Fault Refusal} {valid : Prop} {c : Cause} {w a : Nat}
    {txt bs : List Byte} (h : StoresText s o valid c w a txt bs) (ho : o = .next t) (he : t.err = ⟨0, 0⟩) :
    valid ∧ txt.length ≤ w ∧ Printable txt ∧ t.StoredFrom s .done ∧ t.BytesFrom s a bs := by
  have hraised (x : Cause) (hx : o = .next (s.failed x.kind x.info x)) : False := by
    obtain rfl := Host.Outcome.next.inj (ho.symm.trans hx)
    exact err_failed_ne_ok s x he
  have hv : valid := by_contra fun hv => hraised c (h.invalid hv)
  have hlen : txt.length ≤ w := not_lt.mp fun hlen => hraised .badName (h.long hv hlen)
  have hp : Printable txt := by_contra fun hp => hraised .badChar (h.unprintable hv hlen hp)
  obtain ⟨u, hu, hstored, hbytes⟩ := h.stores hv hlen hp
  obtain rfl := Host.Outcome.next.inj (ho.symm.trans hu)
  exact ⟨hv, hlen, hp, hstored, hbytes⟩

/-! ### Encoding (R192, R223) -/

theorem nameRecord_length {c : Config} {txt : List Byte} (h : txt.length ≤ c.namePadWidth) :
    (nameRecord c txt).length = 16 := by
  have hpad := namePadWidth_le c
  simp only [nameRecord, rep, List.length_append, List.length_replicate]
  omega

theorem exec_nameEncode_storesText {s : State} (hb : s.busy = false) (hi : TablesInImage s.cfg) (hw : s.ImageWf) (n : Nat)
    (txt : List Byte) :
    StoresText s (exec (.nameEncode n txt) s) (1 ≤ n ∧ n ≤ 200) .badChannel s.cfg.namePadWidth
      (s.cfg.nameBase + 16 * (n - 1)) txt (nameRecord s.cfg txt) := by
  refine storesText_issue hb hw (f := fun t => t.nameEncode n txt) (fun hn hlen => ?_) (fun hn => ?_) fun hn => ?_
  · rw [nameRecord_length hlen]
    exact name_in_image hi hn.1 hn.2
  · rw [State.nameEncode, nameSlot_bad (by omega), bind_error]
  · rw [State.nameEncode, nameSlot_ok hn.1 hn.2, bind_ok]
    rfl

/-- Settles O34: the number, the length and the characters are checked before the one write. -/
theorem nameEncodeStores : Obligations.NameEncodeStores := by
  intro n txt s hb hi hw
  have h := exec_nameEncode_storesText hb hi hw n txt
  exact ⟨opselIs_of_encode rfl, fun h1 h2 => h.stores ⟨h1, h2⟩, fun hn => exec_nameEncode_badNumber hb hn txt,
    fun h1 h2 => h.long ⟨h1, h2⟩, fun h1 h2 => h.unprintable ⟨h1, h2⟩⟩

theorem logoRecord_length {txt : List Byte} (h : txt.length ≤ 12) : (txt ++ rep 0x20 (12 - txt.length)).length = 12 := by
  rw [rep, List.length_append, List.length_replicate, Nat.add_sub_cancel' h]

theorem exec_logoEncode_storesText {s : State} (hb : s.busy = false) (hw : s.ImageWf) {k : Nat}
    (ha : logoLine s.cfg k + 16 ≤ Config.imgSize) (txt : List Byte) :
    StoresText s (exec (.logoEncode k txt) s) (k = 1 ∨ k = 2) .badIndex 12 (logoLine s.cfg k) txt
      (txt ++ rep 0x20 (12 - txt.length)) := by
  refine storesText_issue hb hw (f := fun t => t.logoEncode k txt) (fun _ hlen => ?_) (fun hk => ?_) fun hk => ?_
  · rw [logoRecord_length hlen]
    omega
  · rw [State.logoEncode, logoAddr_bad hk, bind_error]
  · rw [State.logoEncode, logoAddr_line hk, bind_ok]

/-- Settles O35: the line, the length and the characters are checked before the one write of twelve bytes. -/
theorem logoEncodeStores : Obligations.LogoEncodeStores := by
  rintro k a txt s hb hw rfl ha
  have h := exec_logoEncode_storesText hb hw ha txt
  exact ⟨opselIs_of_encode rfl, h.stores, fun h1 h2 => h.invalid (not_or.mpr ⟨h1, h2⟩), h.long, h.unprintable⟩

/-! ### The round trip (R195, R223) -/

theorem logoLine_in_image {c : Config} (h1 : c.settingsMap.logo1 + 16 ≤ Config.imgSize)
    (h2 : c.settingsMap.logo2 + 16 ≤ Config.imgSize) (k : Nat) : logoLine c k + 16 ≤ Config.imgSize := by
  rw [logoLine]
  split
  · exact h1
  · exact h2

/-- Settles O36: the bytes that were stored are the text and its padding, and of such bytes the text is the one answer. -/
theorem textRoundTrip : Obligations.TextRoundTrip := by
  intro n k sp txt s t hb hi hw hlogo1 hlogo2 hlast
  constructor
  · intro hexec herr
    obtain ⟨⟨h1, h2⟩, hlen, hp, hstored, hbytes⟩ := (exec_nameEncode_storesText hb hi hw n _).of_ok hexec herr
    have hcfg := storedFrom_cfg hstored
    have hread := rdBytes_of_bytesFrom hbytes (nameRecord_length hlen)
    have htext := nameText_isTextOf t (s.cfg.nameBase + 16 * (n - 1))
    rw [exec_nameDecode ((storedFrom_busy hstored).trans hb) (hcfg ▸ hi) h1 h2, hcfg]
    rw [hread] at htext ⊢
    rw [isTextOf_unique htext (isTextOf_padded hp hlast _ _)]
  · intro hexec herr
    have ha := logoLine_in_image hlogo1 hlogo2 k
    obtain ⟨hk, hlen, hp, hstored, hbytes⟩ := (exec_logoEncode_storesText hb hw ha _).of_ok hexec herr
    have hcfg := storedFrom_cfg hstored
    have hread := rdBytes_of_bytesFrom hbytes (logoRecord_length hlen)
    have htext := logoText_isTextOf t (logoLine s.cfg k)
    have hpadded := isTextOf_padded hp hlast (12 - (txt ++ List.replicate sp 0x20).length) 0
    rw [List.replicate_zero, List.append_nil] at hpadded
    rw [exec_logoDecode ((storedFrom_busy hstored).trans hb) hk (hcfg ▸ ha), hcfg]
    rw [hread] at htext
    rw [isTextOf_unique htext hpadded]

end Sys2Proof.Machine
end

section
/-! The FM table and the settings (46_names_fm_settings.md R200 to R203, R219 to R221, R224, R225): raw bytes at the address a
parameter gives them. -/

namespace Sys2Proof.Machine

/-! ### The FM table (R200, R201) -/

theorem le16_eq_ofNat (b0 b1 : Byte) : le16 b0 b1 = BitVec.ofNat 16 (b0.toNat + 256 * b1.toNat) := by
  have happend : (le16 b0 b1).toNat = b0.toNat + 256 * b1.toNat := by
    rw [le16, BitVec.toNat_append, ← Nat.shiftLeft_add_eq_or_of_lt b0.isLt, Nat.shiftLeft_eq]
    omega
  rw [← happend, BitVec.ofNat_toNat, BitVec.setWidth_eq]

theorem fmAddr_ok {i : Nat} (h : i ≤ 15) (c : Config) : fmAddr c i = .ok (c.fmBase + 2 * i) := by
  rw [fmAddr, if_neg h.not_gt]

theorem fmAddr_bad {i : Nat} (h : 15 < i) (c : Config) : fmAddr c i = .error .badIndex := by
  rw [fmAddr, if_pos h]

theorem fm_in_image {c : Config} (h : c.fmBase + 32 ≤ Config.imgSize) {i : Nat} (hi : i ≤ 15) :
    c.fmBase + 2 * i + 2 ≤ Config.imgSize := by omega

theorem exec_fmDecode {s : State} {i : Nat} (hb : s.busy = false) (hfm : s.cfg.fmBase + 32 ≤ Config.imgSize)
    (hi : i ≤ 15) : exec (.fmDecode i) s =
      .next (s.answered (.half (le16 (s.rd (s.cfg.fmBase + 2 * i)) (s.rd (s.cfg.fmBase + 2 * i + 1))))) := by
  refine issue_read_ok hb .half (f := fun t => do t.memReadHalf (← fmAddr t.cfg i)) ?_
  rw [fmAddr_ok hi, bind_ok, memReadHalf_eq, if_pos (fm_in_image hfm hi)]
  rfl

/-- What was stored as the two bytes of `v` is read as `v` (R201). -/
theorem le16_of_bytesFrom {s t : State} {a : Nat} {v : Half} (h : t.BytesFrom s a (halfBytes v)) :
    le16 (t.rd a) (t.rd (a + 1)) = v := by
  have hlen : (halfBytes v).length = 2 := rfl
  have hlow : t.rd a = v.extractLsb' 0 8 := by
    rw [h, if_pos (by omega), Nat.sub_self]
    rfl
  have hhigh : t.rd (a + 1) = v.extractLsb' 8 8 := by
    rw [h, if_pos (by omega), Nat.add_sub_cancel_left]
    rfl
  rw [hlow, hhigh, le16_halfBytes]

/-- Settles O37: an entry is two bytes, low byte first. -/
theorem fmEntryReadWrite : Obligations.FmEntryReadWrite := by
  intro i v s hb hfm hw
  refine ⟨opselIs_of_encode rfl, opselIs_of_encode rfl, fun hi => ?_, fun hi => ?_, fun hi => ⟨?_, ?_⟩⟩
  · rw [exec_fmDecode hb hfm hi, le16_eq_ofNat]
  · obtain ⟨t, hexec, hstored, hbytes⟩ :=
      issue_store (f := fun t => do t.memWriteBytes (← fmAddr t.cfg i) (halfBytes v)) (a := s.cfg.fmBase + 2 * i)
        (bs := halfBytes v) hb hw (fm_in_image hfm hi) (by rw [fmAddr_ok hi, bind_ok])
    have hcfg := storedFrom_cfg hstored
    refine ⟨t, hexec, hstored, halfBytes_eq v ▸ hbytes, ?_⟩
    rw [exec_fmDecode ((storedFrom_busy hstored).trans hb) (hcfg ▸ hfm) hi, hcfg, le16_of_bytesFrom hbytes]
  · exact issue_read_error hb .half (f := fun t => do t.memReadHalf (← fmAddr t.cfg i)) (c := .badIndex)
      (by rw [fmAddr_bad hi, bind_error])
  · exact issue_commit_error hb (f := fun t => do t.memWriteBytes (← fmAddr t.cfg i) (halfBytes v)) (c := .badIndex)
      (fun _ u => (u, .done)) (by rw [fmAddr_bad hi, bind_error])

/-! ### A byte at a named address (R202, R203, R221, R225) -/

/-- The address of the first entry of a name; the settings and the unlock flags are both looked up so
(`fieldAddr_eq_entryAddr`, `flagAddr_eq_entryAddr`). -/
def entryAddr (entries : List (FieldName × Nat)) (f : FieldName) : Except Cause Nat :=
  match entries.find? fun p => p.1 == f with
  | some p => .ok p.2
  | none => .error .badField

theorem entryAddr_of_mem {entries : List (FieldName × Nat)} (hn : (entries.map Prod.fst).Nodup) {f : FieldName} {a : Nat}
    (h : (f, a) ∈ entries) : entryAddr entries f = .ok a := by
  obtain ⟨p, hp⟩ := Option.isSome_iff_exists.mp (List.find?_isSome (p := fun p => p.1 == f).mpr
    ⟨(f, a), h, beq_self_eq_true f⟩)
  have hmatch := List.find?_some hp
  have hname : p.1 = f := beq_iff_eq.mp hmatch
  obtain rfl : p = (f, a) := List.inj_on_of_nodup_map hn (List.mem_of_find?_eq_some hp) h hname
  rw [entryAddr, hp]

theorem entryAddr_of_forall_ne {entries : List (FieldName × Nat)} {f : FieldName} (h : ∀ p ∈ entries, p.1 ≠ f) :
    entryAddr entries f = .error .badField := by
  have hnone : (entries.find? fun p => p.1 == f) = none :=
    List.find?_eq_none.mpr fun p hp => mt beq_iff_eq.mp (h p hp)
  rw [entryAddr, hnone]

theorem flagAddr_eq_entryAddr (c : Config) (g : FieldName) : flagAddr c g = entryAddr c.unlockFlags g := rfl

theorem settingTable_eq_map (m : SettingsMap) :
    settingTable m = settingFields.map fun x => (settingName x, settingAddr m x) := rfl

theorem fieldAddr_eq_entryAddr (c : Config) (f : FieldName) : fieldAddr c f = entryAddr (settingTable c.settingsMap) f := by
  have hfind : ((settingTable c.settingsMap).find? fun p => p.1 == f) =
      (settingOf f).map fun x => (settingName x, settingAddr c.settingsMap x) := by
    rw [settingTable_eq_map, List.find?_map]
    rfl
  rw [entryAddr, hfind, fieldAddr]
  cases settingOf f <;> rfl

/-- No two settings share a name (R204 to R217, R220). -/
theorem settingTable_nodup (m : SettingsMap) : ((settingTable m).map Prod.fst).Nodup := by
  have hnames : (settingTable m).map Prod.fst = settingFields.map settingName := rfl
  rw [hnames]
  decide

section
variable {s : State} {addr : Config → Except Cause Nat} (hb : s.busy = false)
include hb

/-- Reading and writing, raw, the byte whose address `addr` gives. -/
theorem issue_byte_ok {a : Nat} (hw : s.ImageWf) (haddr : addr s.cfg = .ok a) (ha : a < Config.imgSize) (v : Byte) :
    issue s (fun t => t.commit ((do t.memReadByte (← addr t.cfg)).map fun v => (t, .byte v))) =
        .next (s.answered (.byte (s.rd a))) ∧
      ∃ t, issue s (fun t => t.commit ((do t.memWriteBytes (← addr t.cfg) [v]).map fun u => (u, .done))) = .next t ∧
        t.StoredFrom s .done ∧ t.BytesFrom s a [v] := by
  constructor
  · refine issue_read_ok hb .byte (f := fun t => do t.memReadByte (← addr t.cfg)) ?_
    rw [haddr, bind_ok, memReadByte_eq, if_pos (Nat.succ_le_of_lt ha), rd_setBusy]
  · exact issue_store (f := fun t => do t.memWriteBytes (← addr t.cfg) [v]) hb hw ha (by rw [haddr, bind_ok])

theorem issue_byte_error {c : Cause} (haddr : addr s.cfg = .error c) (v : Byte) :
    issue s (fun t => t.commit ((do t.memReadByte (← addr t.cfg)).map fun v => (t, .byte v))) =
        .next (s.failed c.kind c.info c) ∧
      issue s (fun t => t.commit ((do t.memWriteBytes (← addr t.cfg) [v]).map fun u => (u, .done))) =
        .next (s.failed c.kind c.info c) :=
  ⟨issue_read_error hb .byte (f := fun t => do t.memReadByte (← addr t.cfg)) (by rw [haddr, bind_error]),
    issue_commit_error hb (f := fun t => do t.memWriteBytes (← addr t.cfg) [v]) (fun _ u => (u, .done))
      (by rw [haddr, bind_error])⟩

end

/-- Settles O38: a setting is the byte at its entry in `SETTINGS_MAP`. -/
theorem settingReadWrite : Obligations.SettingReadWrite := by
  intro f a v s hb hw
  refine ⟨opselIs_of_encode rfl, opselIs_of_encode rfl, fun hmem ha => ?_, fun hnone => ?_⟩
  · have haddr := (fieldAddr_eq_entryAddr s.cfg f).trans (entryAddr_of_mem (settingTable_nodup _) hmem)
    exact issue_byte_ok (addr := fun c => fieldAddr c f) hb hw haddr ha v
  · have haddr := (fieldAddr_eq_entryAddr s.cfg f).trans (entryAddr_of_forall_ne hnone)
    exact issue_byte_error (addr := fun c => fieldAddr c f) hb haddr v

/-- Settles O39: an unlock flag is the byte at its entry in `UNLOCK_FLAGS`. -/
theorem unlockReadWrite : Obligations.UnlockReadWrite := by
  intro g a v s hb hw
  refine ⟨opselIs_of_encode rfl, opselIs_of_encode rfl, fun hnodup hmem ha => ?_, fun hnone => ?_⟩
  · have haddr := (flagAddr_eq_entryAddr s.cfg g).trans (entryAddr_of_mem hnodup hmem)
    exact issue_byte_ok (addr := fun c => flagAddr c g) hb hw haddr ha v
  · have haddr := (flagAddr_eq_entryAddr s.cfg g).trans (entryAddr_of_forall_ne hnone)
    exact issue_byte_error (addr := fun c => flagAddr c g) hb haddr v

/-! ### The password (R219, R224) -/

theorem exec_pwdGet {s : State} (hb : s.busy = false) (ha : s.cfg.settingsMap.password + s.cfg.pwdLen ≤ Config.imgSize) :
    exec .pwdGet s = .next (s.answered (.bytes (s.rdBytes s.cfg.settingsMap.password s.cfg.pwdLen))) := by
  refine issue_read_ok hb .bytes (f := fun t => t.memReadBytes t.cfg.settingsMap.password t.cfg.pwdLen) ?_
  rw [memReadBytes_setBusy, memReadBytes_eq, if_pos ha]

/-- Settles O40: the length is the only check. -/
theorem passwordReadWrite : Obligations.PasswordReadWrite := by
  intro p s hb ha hw
  refine ⟨opselIs_of_encode rfl, opselIs_of_encode rfl, exec_pwdGet hb ha, fun hlen => ?_, fun hlen => ?_⟩
  · obtain ⟨t, hexec, hstored, hbytes⟩ := issue_store (f := fun t => t.pwdPut p) (a := s.cfg.settingsMap.password)
      (bs := p) hb hw (hlen ▸ ha) (by rw [State.pwdPut, if_neg (not_not.mpr hlen)])
    have hcfg := storedFrom_cfg hstored
    refine ⟨t, hexec, hstored, hbytes, ?_⟩
    rw [exec_pwdGet ((storedFrom_busy hstored).trans hb) (hcfg ▸ ha), hcfg, rdBytes_of_bytesFrom hbytes hlen]
  · exact issue_commit_error hb (f := fun t => t.pwdPut p) (c := .badName) (fun _ u => (u, .done))
      (by rw [State.pwdPut, if_pos hlen])

end Sys2Proof.Machine
end

section
/-! The port to the image (47_host_sequences.md R240, 20_memory.md R43). -/

namespace Sys2Proof.Machine

theorem exec_imgStore {s : State} {a n : Nat} (hb : s.busy = false) (ha : a + n ≤ Config.imgSize) :
    exec (.imgStore a n) s = .next (s.answered (.bytes (s.rdBytes a n))) := by
  refine issue_read_ok hb .bytes (f := fun t => t.memReadBytes a n) ?_
  rw [memReadBytes_setBusy, memReadBytes_eq, if_pos ha]

theorem exec_imgStore_oob {s : State} {a n : Nat} (hb : s.busy = false) (ha : Config.imgSize < a + n) :
    exec (.imgStore a n) s = .next (s.failed 5 2 .oob) :=
  issue_read_error hb .bytes (f := fun t => t.memReadBytes a n) (c := .oob)
    (by rw [memReadBytes_eq, if_neg ha.not_ge])

theorem exec_imgLoad_oob {s : State} {a : Nat} {bs : List Byte} (hb : s.busy = false)
    (ha : Config.imgSize < a + bs.length) : exec (.imgLoad a bs) s = .next (s.failed 5 2 .oob) :=
  issue_commit_error hb (f := fun t => t.memWriteBytes a bs) (c := .oob) (fun _ u => (u, .done))
    (by rw [memWriteBytes_eq, if_neg ha.not_ge])

/-- Settles O41: a load is one write of the image (`issue_store`), a store one read of it. -/
theorem imageLoadStore : Obligations.ImageLoadStore := by
  intro a n bs s hb hw
  refine ⟨opselIs_of_encode rfl, opselIs_of_encode rfl, fun ha => ?_, exec_imgLoad_oob hb, fun ha => ?_,
    exec_imgStore_oob hb⟩
  · exact issue_store (f := fun t => t.memWriteBytes a bs) hb hw ha rfl
  · exact ⟨s.rdBytes a n, rdBytes_length s a n, byteAt_rdBytes s a n, exec_imgStore hb ha⟩

end Sys2Proof.Machine
end

section
/-! Sending a command and reading nothing (47_host_sequences.md R231, R239). -/

namespace Sys2Proof.Machine

/-- `XCV.SEND` of a command that fits (R231). -/
theorem exec_xcvSend {cmd : List Byte} {s : State} (hb : s.busy = false) (hl : cmd.length ≤ 255) :
    exec (.xcvSend cmd) s = .next ((s.sent cmd).answered .done) := by
  rw [exec, execXcvSend, issue_idle hb, sendFrame_ok hl, map_ok, commit_ok]
  cases s
  subst hb
  rfl

/-- `XCV.SEND` of a longer one. -/
theorem exec_xcvSend_tooLong {cmd : List Byte} {s : State} (hb : s.busy = false) (hl : 255 < cmd.length) :
    exec (.xcvSend cmd) s = .next (s.failed 5 1 .tooLong) := by
  rw [exec, execXcvSend, issue_idle hb, sendFrame_long hl, map_error, commit_error, busy_raise hb]
  rfl

/-- `DRV.RESET` is `XCV.SEND` of the reset command (R239). -/
theorem exec_drvReset (s : State) : exec .drvReset s = exec (.xcvSend (cmdReset s.cfg)) s := rfl

theorem cmdReset_length (c : Config) : (cmdReset c).length = 4 := resetCmd_length c

/-- Settles O42: `XCV.SEND` goes through `FRAME.BUILD`, which is where a command too long is refused. -/
theorem sendAppendsOneFrame : Obligations.SendAppendsOneFrame := by
  intro cmd s hb
  have hsend {w : List Byte} (hl : w.length ≤ 255) : ∃ f t, exec (.frameBuild w) s = .next t ∧ t.out = .bytes f ∧
      exec (.xcvSend w) s = .next { t with txq := s.txq ++ f, out := .done } :=
    ⟨frameBytes s.cfg w, _, exec_frameBuild hb hl, rfl, exec_xcvSend hb hl⟩
  have hreset : (cmdReset s.cfg).length ≤ 255 := by rw [cmdReset_length]; decide
  rw [exec_drvReset]
  exact ⟨hsend, exec_xcvSend_tooLong hb, hsend hreset⟩

end Sys2Proof.Machine
end

section
/-! An exchange with the line (47_host_sequences.md R230 to R239): a command is sent, the block waits for a frame, the bytes
of a reply end the reception, and the host goes on. What an exchange keeps of the state that it began in is said once
(`State.Exchanged`), with the two places at which a sequence can stand: it waits (`State.Awaits`), or a frame has ended and
it is the host's turn (`State.Ready`). -/

namespace Sys2Proof.Machine

/-! ### The two places of a sequence -/

/-- `t` comes from `s` through an exchange in which `sent` went out: image, parameters and the inputs to come are those of
`s`. -/
structure State.Exchanged (t s : State) (sent : List Byte) : Prop where
  img : t.img = s.img
  cfg : t.cfg = s.cfg
  inq : t.inq = s.inq
  txq : t.txq = s.txq ++ sent
  buffers : t.Buffers

/-- The block waits for the first byte of a frame, on behalf of the sequence `q`. -/
structure State.Awaits (t s : State) (sent : List Byte) (q : HostSeq) : Prop extends t.Exchanged s sent where
  rxs : t.rxs = .hdr
  cnt : t.cnt = 0
  seq : t.seq = q

/-- A frame has ended, and the host goes on. -/
structure State.Ready (t s : State) (sent : List Byte) : Prop extends t.Exchanged s sent where
  rxs : t.rxs = .idle
  cnt : t.cnt = 0
  seq : t.seq = .ret

/-- Sending goes on from what was sent before (R231). -/
theorem sent_exchanged {t s : State} {sent : List Byte} (h : t.Exchanged s sent) (cmd : List Byte) :
    (t.sent cmd).Exchanged s (sent ++ frameBytes s.cfg cmd) where
  img := h.img
  cfg := h.cfg
  inq := h.inq
  txq := by rw [State.sent, h.txq, h.cfg, List.append_assoc]
  buffers := h.buffers

theorem sent_ready {t s : State} {sent : List Byte} (h : t.Ready s sent) (cmd : List Byte) :
    (t.sent cmd).Ready s (sent ++ frameBytes s.cfg cmd) :=
  ⟨sent_exchanged h.toExchanged cmd, h.rxs, h.cnt, h.seq⟩

theorem sendAndWait_awaits {t s : State} {sent cmd : List Byte} (h : t.Exchanged s sent) (hl : cmd.length ≤ 255)
    (q : HostSeq) : (t.sendAndWait cmd q).Awaits s (sent ++ frameBytes s.cfg cmd) q := by
  obtain ⟨himg, hcfg, hinq, htxq, hbuffers⟩ := sent_exchanged h cmd
  rw [sendAndWait_ok hl]
  exact ⟨⟨himg, hcfg, hinq, htxq, hbuffers⟩, rfl, rfl, rfl⟩

/-- A sequence that begins with a command on an idle block: the command is sent, and the bytes that stand in `RXQ` are
taken. -/
theorem runSequence_sends {s : State} {first : State → State} {cmd : List Byte} {q : HostSeq} (hb : s.busy = false)
    (hs : s.Buffers) (hl : cmd.length ≤ 255) (hfirst : first s.started = s.started.sendAndWait cmd q) :
    ∃ t : State, t.Awaits s (frameBytes s.cfg cmd) q ∧ runSequence s first = .next (feed s.rxq t) := by
  have hstarted : s.started.Exchanged s [] := ⟨rfl, rfl, rfl, (List.append_nil _).symm, hs⟩
  refine ⟨s.started.sendAndWait cmd q, sendAndWait_awaits hstarted hl q, ?_⟩
  rw [runSequence, issue_idle hb, hfirst, sendAndWait_ok hl]
  rfl

/-! ### The bytes of one reply -/

/-- The bytes `bs` bring a reception to its end `e` at their last byte (43_framing.md R113, R114, R121). -/
inductive ReplyEnds (c : Config) : List Byte → ParseEnd → Prop where
  | frame (r : Reply) (hr : r.1.length ≤ 255) : ReplyEnds c (replyFrame r) (.ok (obfBytes c.key 0 r.1))
  | bad {bs : List Byte} {i : BitVec 8} {x : Cause} (h : BadReply bs i x) : ReplyEnds c bs (.error x)

/-- `ERR` and the relabelling of R265 for the cause of a malformed reply. -/
theorem badReply_cause {bs : List Byte} {i : BitVec 8} {c : Cause} (h : BadReply bs i c) :
    c.errReg = ⟨1, i⟩ ∧ blockCause c = c := by
  have herr : c.errReg = ⟨1, i⟩ := by
    rcases h with ⟨b0, b1, b2, b3, -, hf⟩ | ⟨rfl, rfl, -⟩
    · exact (headerCheck_bad (b2 := b2) hf).2
    · rfl
  have hkind : c.kind = 1 := congrArg ErrReg.kind herr
  refine ⟨herr, ?_⟩
  cases c
  case badHead | badRsvd | badTail => rfl
  all_goals cases hkind

/-- The host opens its turn by setting `seq` back; one that is set back already stays. -/
theorem react_withSeq (s : State) (q : HostSeq) (e : ParseEnd) :
    ({ s with seq := .ret } : State).react q e = s.react q e := rfl

/-- A reply ends the reception that waits for it, and the host goes on with the sequence. -/
theorem feed_reply {t s : State} {sent bs : List Byte} {q : HostSeq} {e : ParseEnd} (h : t.Awaits s sent q)
    (he : ReplyEnds s.cfg bs e) : ∃ u : State, u.Ready s sent ∧ ∀ rest, feed (bs ++ rest) t = feed rest (u.react q e) := by
  obtain ⟨⟨himg, hcfg, hinq, htxq, hbuf⟩, hrxs, hcnt, rfl⟩ := h
  have hrxb {p : List Byte} (hp : p.length ≤ 255) : (p ++ t.rxb.drop p.length).length = 255 := by
    rw [List.length_append, List.length_drop, hbuf.2.2]
    omega
  cases he with
  | frame r hr =>
    refine ⟨{ t.received r.1 r.2.1 r.2.2 with seq := .ret }, ?_, fun rest => ?_⟩
    · exact ⟨⟨himg, hcfg, hinq, htxq, rfl, rfl, hrxb hr⟩, rfl, rfl, rfl⟩
    · rw [replyFrame, feed_frame hrxs hcnt hbuf hr, react_withSeq, hcfg]
  | @bad _ i _ hbad =>
    rcases hbad with ⟨b0, b1, b2, b3, rfl, hf⟩ | ⟨rfl, rfl, p, t0, t1, t2, t3, hp, hf, rfl⟩
    · refine ⟨{ t.badHeader b0 b1 b2 b3 i with seq := .ret }, ?_, fun rest => ?_⟩
      · exact ⟨⟨himg, hcfg, hinq, htxq, rfl, hbuf.2⟩, rfl, rfl, rfl⟩
      · rw [feed_badHeader hrxs hcnt hbuf.1 hf, react_withSeq]
    · refine ⟨_, ?_, fun rest => (feed_badFrame hrxs hcnt hbuf hp hf).trans (congrArg _ (react_withSeq _ _ _).symm)⟩
      exact ⟨⟨himg, hcfg, hinq, htxq, rfl, rfl, hrxb hp⟩, rfl, rfl, rfl⟩

/-- A reply after which the sequence waits again. -/
theorem feed_reply_awaits {t s : State} {sent sent' bs : List Byte} {q q' : HostSeq} {e : ParseEnd}
    (h : t.Awaits s sent q) (he : ReplyEnds s.cfg bs e)
    (hreact : ∀ u : State, u.Ready s sent → (u.react q e).Awaits s sent' q') :
    ∃ t' : State, t'.Awaits s sent' q' ∧ ∀ rest, feed (bs ++ rest) t = feed rest t' := by
  obtain ⟨u, hu, hfeed⟩ := feed_reply h he
  exact ⟨u.react q e, hreact u hu, hfeed⟩

/-- Replies one after the other, at each of which the sequence goes on from its place `Q k`, where `S k` has been sent, to
the next. -/
theorem feed_replies {s : State} {S : Nat → List Byte} {Q : Nat → HostSeq} {replies : List (List Byte)}
    (hstep : ∀ k, ∀ hk : k < replies.length, ∀ t : State, t.Awaits s (S k) (Q k) →
      ∃ t' : State, t'.Awaits s (S (k + 1)) (Q (k + 1)) ∧ ∀ rest, feed (replies[k] ++ rest) t = feed rest t')
    {t : State} (ht : t.Awaits s (S 0) (Q 0)) :
    ∃ t' : State, t'.Awaits s (S replies.length) (Q replies.length) ∧
      ∀ rest, feed (replies.flatten ++ rest) t = feed rest t' := by
  induction replies generalizing S Q t with
  | nil => exact ⟨t, ht, fun _ => rfl⟩
  | cons bs replies ih =>
    obtain ⟨t₁, ht₁, hfirst⟩ := hstep 0 (Nat.succ_pos _) t ht
    obtain ⟨t₂, ht₂, hmore⟩ := ih (S := fun k => S (k + 1)) (Q := fun k => Q (k + 1))
      (fun k hk => hstep (k + 1) (Nat.succ_lt_succ hk)) ht₁
    refine ⟨t₂, ht₂, fun rest => ?_⟩
    rw [List.flatten_cons, List.append_assoc]
    exact (hfirst _).trans (hmore rest)

/-! ### The end of an exchange -/

theorem ready_succeed_ended {u s : State} {sent : List Byte} (h : u.Ready s sent) (rest : List Byte) (r : Result) :
    (feed rest (u.succeed r)).Ended s sent rest ⟨0, 0⟩ r := by
  obtain ⟨⟨himg, hcfg, hinq, htxq, -⟩, hrxs, hcnt, hseq⟩ := h
  rw [feed_idle (s := u.succeed r) hrxs, State.Ended, State.succeed, himg, hcfg, hinq, htxq, hrxs, hcnt, hseq]
  rfl

theorem ready_raise_ended {u s : State} {sent : List Byte} (h : u.Ready s sent) (rest : List Byte) (c : Cause) :
    (feed rest (u.raise c)).Ended s sent rest c.errReg (.error c) := by
  obtain ⟨⟨himg, hcfg, hinq, htxq, -⟩, -, -, hseq⟩ := h
  rw [feed_idle (s := u.raise c) rfl, State.Ended, State.raise, State.finish, himg, hcfg, hinq, htxq, hseq]

/-- How an exchange has ended, by what its last reply came to: an answer, with `ERR` OK, or a cause raised. -/
def State.EndedWith (t s : State) (sent left : List Byte) : Except Cause Result → Prop
  | .ok r => t.Ended s sent left ⟨0, 0⟩ r
  | .error c => t.Ended s sent left c.errReg (.error c)

theorem endedWith_ok {t s : State} {sent left : List Byte} {r : Result} :
    t.EndedWith s sent left (.ok r) ↔ t.Ended s sent left ⟨0, 0⟩ r := Iff.rfl

theorem endedWith_error {t s : State} {sent left : List Byte} {c : Cause} :
    t.EndedWith s sent left (.error c) ↔ t.Ended s sent left c.errReg (.error c) := Iff.rfl

theorem ready_commit_ended {α : Type} {u s : State} {sent : List Byte} (h : u.Ready s sent) (rest : List Byte)
    (x : Except Cause α) (g : α → Result) :
    (feed rest (u.commit (x.map fun v => (u, g v)))).EndedWith s sent rest (x.map g) := by
  cases x with
  | ok v => exact ready_succeed_ended h rest (g v)
  | error c => exact ready_raise_ended h rest c

/-- The frame of the command that an operation answers. -/
theorem commandFrame_of_exec {s : State} {i : Instr} {w : List Byte}
    (h : exec i { s with busy := false } = .next (({ s with busy := false } : State).answered (.bytes w)))
    (hl : w.length ≤ 255) : CommandFrame s i (frameBytes s.cfg w) :=
  ⟨w, h, _, exec_frameBuild rfl hl, rfl⟩

end Sys2Proof.Machine
end

section
/-! The driver's read and write of one block (47_host_sequences.md R237, R238; 60_exceptions.md R265): one command, one
reply. -/

namespace Sys2Proof.Machine

/-! ### What the host makes of the reply -/

theorem react_read {s : State} (h : s.seq = .ret) (length : Byte) (e : ParseEnd) :
    s.react (.read length) e = s.commit ((readReply length e).map fun d => (s, .bytes d)) := by
  cases s
  cases h
  rfl

theorem react_write {s : State} (h : s.seq = .ret) (offset : Half) (e : ParseEnd) :
    s.react (.write offset) e = s.commit ((writeReply s.cfg offset e).map fun b => (s, .bool b)) := by
  cases s
  cases h
  rfl

/-- A malformed reply is raised unchanged (R265). -/
theorem readReply_bad {bs : List Byte} {i : BitVec 8} {c : Cause} (h : BadReply bs i c) (length : Byte) :
    readReply length (.error c) = .error c := congrArg Except.error (badReply_cause h).2

theorem writeReply_bad {bs : List Byte} {i : BitVec 8} {c : Cause} (h : BadReply bs i c) (x : Config) (offset : Half) :
    writeReply x offset (.error c) = .error c := congrArg Except.error (badReply_cause h).2

/-! ### Reading (R237) -/

theorem exec_drvRead_reply {offset : Half} {length : Byte} {s : State} {bs rest : List Byte} {e : ParseEnd}
    (hb : s.busy = false) (hs : s.Buffers) (hl : (cmdRead s.cfg offset length).length ≤ 255) (he : ReplyEnds s.cfg bs e)
    (hq : s.rxq = bs ++ rest) :
    ∃ t, exec (.drvRead offset length) s = .next t ∧
      t.EndedWith s (frameBytes s.cfg (cmdRead s.cfg offset length)) rest ((readReply length e).map .bytes) := by
  obtain ⟨t, ht, hexec⟩ := runSequence_sends
    (first := fun t => t.sendAndWait (cmdRead t.cfg offset length) (.read length)) hb hs hl rfl
  obtain ⟨u, hu, hfeed⟩ := feed_reply ht he
  refine ⟨_, hexec, ?_⟩
  rw [hq, hfeed, react_read hu.seq]
  exact ready_commit_ended hu rest (readReply length e) .bytes

theorem commandFrame_read {s : State} (offset : Half) (length : Byte)
    (hl : (cmdRead s.cfg offset length).length ≤ 255) :
    CommandFrame s (.cmdRead offset length) (frameBytes s.cfg (cmdRead s.cfg offset length)) :=
  commandFrame_of_exec (exec_cmdRead offset length rfl) hl

/-- Settles O45: the reply is data of `length` bytes, or too short, or malformed (`exec_drvRead_reply`). -/
theorem driverReadReply : Obligations.DriverReadReply := by
  intro offset length rest s hb hs hwire
  have hl : (cmdRead s.cfg offset length).length ≤ 255 := by rwa [cmdRead_length]
  refine ⟨_, commandFrame_read offset length hl, fun r hr hq => ?_, fun b i c hbad hq => ?_⟩
  · obtain ⟨t, hexec, hended⟩ := exec_drvRead_reply hb hs hl (.frame r hr) hq
    refine ⟨_, t, obfBytes_xorsKey s.cfg r.1, hexec, fun henough => ?_, fun hshort => ?_⟩
    · rwa [readReply, rspRead_enough (by rwa [obfBytes_length])] at hended
    · rwa [readReply, rspRead_short (by rwa [obfBytes_length])] at hended
  · obtain ⟨t, hexec, hended⟩ := exec_drvRead_reply hb hs hl (.bad hbad) hq
    rw [readReply_bad hbad, map_error, endedWith_error, (badReply_cause hbad).1] at hended
    exact ⟨t, hexec, hended⟩

/-! ### Writing (R238) -/

/-- The write payload of R136, with the entry of `WRITE_PREFIX` for the length of the data. -/
def writeCommand (c : Config) (data : List Byte) (offset : Half) : List Byte :=
  writePayload c (c.writePrefix.getD data.length []) data offset

section
variable {c : Config} {data : List Byte} (h : c.wpLen + 8 + data.length ≤ 255) (offset : Half)
include h

/-- The entry that `writeCommand` takes. -/
theorem writeCommand_entry : ∃ pre, c.writePrefix[data.length]? = some pre ∧ pre.length = c.wpLen ∧
    writeCommand c data offset = writePayload c pre data offset := by
  obtain ⟨pre, hpre, hlen⟩ := exists_writePrefix c (d := data.length) (by omega)
  refine ⟨pre, hpre, hlen, ?_⟩
  rw [writeCommand, List.getD_eq_getElem?_getD, hpre, Option.getD_some]

theorem cmdWrite_eq_writeCommand : cmdWrite c data offset = .ok (writeCommand c data offset) := by
  obtain ⟨pre, hpre, -, heq⟩ := writeCommand_entry h offset
  rw [heq, cmdWrite_fits offset h hpre]

theorem writeCommand_length : (writeCommand c data offset).length ≤ 255 := by
  obtain ⟨pre, -, hlen, heq⟩ := writeCommand_entry h offset
  rw [heq, writePayload_length, hlen]
  exact h

end

theorem commandFrame_write {s : State} {data : List Byte} (h : s.cfg.wpLen + 8 + data.length ≤ 255) (offset : Half) :
    CommandFrame s (.cmdWrite data offset) (frameBytes s.cfg (writeCommand s.cfg data offset)) := by
  obtain ⟨pre, hpre, -, heq⟩ := writeCommand_entry h offset
  refine commandFrame_of_exec ?_ (writeCommand_length h offset)
  rw [heq]
  exact exec_cmdWrite_fits rfl h hpre

theorem exec_drvWrite_reply {data : List Byte} {offset : Half} {s : State} {bs rest : List Byte} {e : ParseEnd}
    (hb : s.busy = false) (hs : s.Buffers) (h : s.cfg.wpLen + 8 + data.length ≤ 255) (he : ReplyEnds s.cfg bs e)
    (hq : s.rxq = bs ++ rest) :
    ∃ t, exec (.drvWrite data offset) s = .next t ∧
      t.EndedWith s (frameBytes s.cfg (writeCommand s.cfg data offset)) rest
        ((writeReply s.cfg offset e).map .bool) := by
  have hcmd : cmdWrite s.started.cfg data offset = .ok (writeCommand s.cfg data offset) :=
    cmdWrite_eq_writeCommand h offset
  obtain ⟨t, ht, hexec⟩ := runSequence_sends (q := .write offset) (first := fun t =>
    match cmdWrite t.cfg data offset with
    | .ok cmd => t.sendAndWait cmd (.write offset)
    | .error c => t.raise c) hb hs (writeCommand_length h offset) (by simp only [hcmd])
  obtain ⟨u, hu, hfeed⟩ := feed_reply ht he
  refine ⟨_, hexec, ?_⟩
  rw [hq, hfeed, react_write hu.seq, hu.cfg]
  exact ready_commit_ended hu rest (writeReply s.cfg offset e) .bool

/-- A command too long is refused before anything is sent (R238). -/
theorem exec_drvWrite_tooLong {data : List Byte} {offset : Half} {s : State} (hb : s.busy = false)
    (h : 255 < s.cfg.wpLen + 8 + data.length) : exec (.drvWrite data offset) s = .next (s.failed 5 1 .tooLong) := by
  have hcmd : cmdWrite s.started.cfg data offset = .error .tooLong := cmdWrite_tooLong offset h
  rw [exec, execDrvWrite, runSequence, issue_idle hb]
  simp only [hcmd]
  rw [State.drain, feed_raise, busy_raise hb]
  rfl

/-- Settles O46: the reply is judged by `RSP.WRITE`, or malformed (`exec_drvWrite_reply`). -/
theorem driverWriteReply : Obligations.DriverWriteReply := by
  intro data offset rest s hb hs _
  refine ⟨exec_drvWrite_tooLong hb, fun h => ?_⟩
  refine ⟨_, commandFrame_write h offset, fun r hr hq => ?_, fun b i c hbad hq => ?_⟩
  · obtain ⟨t, hexec, hended⟩ := exec_drvWrite_reply hb hs h (.frame r hr) hq
    exact ⟨_, _, t, obfBytes_xorsKey s.cfg r.1, rspWrite_iff s.cfg _ offset, hexec, endedWith_ok.mp hended⟩
  · obtain ⟨t, hexec, hended⟩ := exec_drvWrite_reply hb hs h (.bad hbad) hq
    rw [writeReply_bad hbad, map_error, endedWith_error, (badReply_cause hbad).1] at hended
    exact ⟨t, hexec, hended⟩

end Sys2Proof.Machine
end

section
/-! The identify exchange (47_host_sequences.md R236): up to five attempts, each of which sends one frame; the attempts
that fail by replies standing in `RXQ`. -/

namespace Sys2Proof.Machine

/-! ### One attempt -/

/-- The frame of `CMD.IDENT` (R131). -/
def identFrame (c : Config) : List Byte := frameBytes c (cmdIdent c)

/-- What `n` attempts send. -/
def identSent (c : Config) (n : Nat) : List Byte := (List.replicate n (identFrame c)).flatten

theorem identSent_one (c : Config) : identSent c 1 = identFrame c := List.append_nil _

theorem identSent_succ (c : Config) (n : Nat) : identSent c (n + 1) = identSent c n ++ identFrame c := by
  rw [identSent, List.replicate_succ', List.flatten_concat, identSent]

theorem cmdIdent_fits (c : Config) : (cmdIdent c).length ≤ 255 := by rw [cmdIdent_length]; decide

theorem commandFrame_ident (s : State) : CommandFrame s .cmdIdent (identFrame s.cfg) :=
  commandFrame_of_exec (exec_cmdIdent rfl) (cmdIdent_fits s.cfg)

/-- The block waits for the reply of attempt `n`; what follows the identify is `next`. -/
abbrev State.Identifies (t s : State) (n : Nat) (next : AfterIdent) : Prop :=
  t.Awaits s (identSent s.cfg n) (.identify n next)

/-- A host sequence that begins with `DRV.IDENTIFY` (R241, R242), or that is it. -/
def BeginsIdentify (i : Instr) (next : AfterIdent) : Prop :=
  issuedInstr i = true ∧ ∀ s, exec i s = runSequence s fun t => t.identAttempt 1 next

theorem drvIdentify_begins : BeginsIdentify .drvIdentify .answer := ⟨rfl, fun _ => rfl⟩

theorem syncDownload_begins : BeginsIdentify .syncDownload .download := ⟨rfl, fun _ => rfl⟩

theorem syncUpload_begins : BeginsIdentify .syncUpload .upload := ⟨rfl, fun _ => rfl⟩

theorem exec_identify {i : Instr} {next : AfterIdent} {s : State} (hi : BeginsIdentify i next) (hb : s.busy = false)
    (hs : s.Buffers) : ∃ t : State, t.Identifies s 1 next ∧ exec i s = .next (feed s.rxq t) := by
  obtain ⟨t, ht, hexec⟩ := runSequence_sends (q := .identify 1 next) (first := fun t => t.identAttempt 1 next) hb hs
    (cmdIdent_fits s.cfg) rfl
  refine ⟨t, ?_, (hi.2 s).trans hexec⟩
  rw [State.Identifies, identSent_one]
  exact ht

theorem react_identify_ok {s : State} (h : s.seq = .ret) (n : Nat) (next : AfterIdent) (p : List Byte) :
    s.react (.identify n next) (.ok p) = s.afterIdent (rspIdent p) next := by
  cases s
  cases h
  rfl

theorem react_identify_error {s : State} (h : s.seq = .ret) (n : Nat) (next : AfterIdent) (c : Cause) :
    s.react (.identify n next) (.error c) =
      if n < Config.identAttempts then s.identAttempt (n + 1) next else s.raise .identFailed := by
  cases s
  cases h
  rfl

/-- However an attempt before the fifth fails, the command is sent again. -/
theorem identify_retries {u s : State} {n : Nat} (h : u.Ready s (identSent s.cfg n)) (hn : n < 5) (next : AfterIdent)
    (c : Cause) : (u.react (.identify n next) (.error c)).Identifies s (n + 1) next := by
  rw [react_identify_error h.seq, if_pos hn, State.identAttempt, h.cfg, State.Identifies, identSent_succ]
  exact sendAndWait_awaits h.toExchanged (cmdIdent_fits s.cfg) _

/-- However the fifth attempt fails, the identify fails. -/
theorem identify_fails {u s : State} (h : u.Ready s (identSent s.cfg 5)) (next : AfterIdent) (c : Cause)
    (rest : List Byte) : (feed rest (u.react (.identify 5 next) (.error c))).Ended s (identSent s.cfg 5) rest ⟨2, 3⟩
      (.error .identFailed) := by
  rw [react_identify_error h.seq, if_neg (Nat.lt_irrefl 5)]
  exact ready_raise_ended h rest .identFailed

/-- The firmware string in a reply (R132). -/
def replyFirmware (c : Config) (r : Reply) : List Byte := rspIdent (obfBytes c.key 0 r.1)

/-- A reply that parses ends `DRV.IDENTIFY` with its string. -/
theorem identify_answers {t s : State} {n : Nat} (h : t.Identifies s n .answer) {r : Reply} (hr : r.1.length ≤ 255)
    (rest : List Byte) : (feed (replyFrame r ++ rest) t).Ended s (identSent s.cfg n) rest ⟨0, 0⟩
      (.bytes (replyFirmware s.cfg r)) := by
  obtain ⟨u, hu, hfeed⟩ := feed_reply h (.frame r hr)
  rw [hfeed, react_identify_ok hu.seq]
  exact ready_succeed_ended hu rest _

/-! ### Malformed replies that stand in `RXQ` -/

theorem feed_badReplies {s t : State} {next : AfterIdent} {bads : List (List Byte)} (hlen : bads.length ≤ 4)
    (hbad : ∀ b ∈ bads, ∃ i c, BadReply b i c) (ht : t.Identifies s 1 next) :
    ∃ t' : State, t'.Identifies s (bads.length + 1) next ∧ ∀ rest, feed (bads.flatten ++ rest) t = feed rest t' := by
  refine feed_replies (S := fun k => identSent s.cfg (k + 1)) (Q := fun k => .identify (k + 1) next)
    (fun k hk t ht => ?_) ht
  obtain ⟨i, c, hb⟩ := hbad bads[k] (List.getElem_mem hk)
  exact feed_reply_awaits ht (.bad hb) fun u hu => identify_retries hu (by omega) next c

theorem exists_concat_of_length {α : Type} {l : List α} {n : Nat} (h : l.length = n + 1) :
    ∃ init last, l = init ++ [last] ∧ init.length = n := by
  obtain rfl | ⟨init, last, rfl⟩ := List.eq_nil_or_concat' l
  · cases h
  · exact ⟨init, last, rfl, by simpa using h⟩

end Sys2Proof.Machine
end

section
/-! The identify exchange as the inputs come in one by one (47_host_sequences.md R236, 43_framing.md R120): what bytes, a
timeout and bytes cut short do to a reception that waits for a host sequence, and attempts that fail in any mixture of these. -/

namespace Sys2Proof.Machine

/-! ### A step of a reception that waits for a host sequence -/

/-- What the environment does reaches the block, and where the reception ends by raising the program may end. -/
theorem step_reception {t u : State} {inp : Input} {more : List Input} (hi : t.inq = inp :: more)
    (hop : issuesOp inp = false) (hr : t.rxs ≠ .idle) (hrun : runInput inp { t with inq := more } = .next u)
    (hu : u.inq = more) : step t = .next (u.facing more) := by
  rw [step_cons hi, hrun]
  exact hostRuns_reception (.inr ⟨hop, hr⟩) hu

/-- Bytes come in (10_state.md R12). -/
theorem step_line_reception {t : State} {bs : List Byte} {more : List Input} (hi : t.inq = .line bs :: more)
    (hr : t.rxs ≠ .idle) (hq : t.rxq = []) : step t = .next ((feed bs { t with inq := more }).facing more) := by
  have hdeliver : ({ t with inq := more } : State).deliver bs = feed bs { t with inq := more } := by
    rw [State.deliver, hq, List.nil_append]
  have hinq : (({ t with inq := more } : State).deliver bs).inq = more := ran_inq (.arrives bs)
  rw [← hdeliver]
  exact step_reception hi rfl hr (runInput_line bs _) hinq

/-- However the host goes on when a frame has ended, it takes nothing out of `RXQ` and keeps the buffers. -/
theorem reacted_rxq_buffers {L : Prop} {s t : State} (h : Reacted L s t) :
    t.rxq = s.rxq ∧ (s.Buffers → t.Buffers) := by
  cases h <;> exact ⟨rfl, id⟩

/-- The timeout ends the reception, and the host goes on (43_framing.md R120). -/
theorem timeoutEvent_reception {s : State} {c : Cause} (hc : timeoutCause s.rxs = some c) :
    s.timeoutEvent = feed s.rxq ((s.finish c.errReg).react s.seq (.error c)) := by
  have hne : (Except.error c : ParseEnd) ≠ .error .busy := fun he => timeoutCause_ne_busy hc (Except.error.inj he)
  have hreacted := react_cases (s.finish c.errReg) s.seq (.error c) hne
  have hrxq : ((s.finish c.errReg).react s.seq (.error c)).rxq = s.rxq := (reacted_rxq_buffers hreacted).1
  rw [State.timeoutEvent, hc]
  simp only [State.drain, hrxq]

theorem step_timeout_reception {t : State} {c : Cause} {more : List Input} (hi : t.inq = .timeout :: more)
    (hc : timeoutCause t.rxs = some c) (hq : t.rxq = []) :
    step t = .next ((feed [] ((({ t with inq := more } : State).finish c.errReg).react t.seq (.error c))).facing more) := by
  have hevent := timeoutEvent_reception (s := { t with inq := more }) hc
  have hinq : ({ t with inq := more } : State).timeoutEvent.inq = more := ran_inq .timesOut
  rw [step_reception hi rfl (timeoutCause_rxs hc) (runInput_timeout _) hinq, hevent]
  exact congrArg (fun q => Host.Outcome.next ((feed q _).facing more)) hq

/-! ### A reply cut short -/

theorem feed_buffers (q : List Byte) {s : State} (h : s.Buffers) : (feed q s).Buffers := by
  refine feed_induct (P := State.Buffers) (fun _ _ h => h) ?_ ?_ q s h
  · intro s b t hs _ hb
    simpa only [hb] using rxByte_buffers b hs
  · intro s b t e hs _ hb
    have ht : t.Buffers := by simpa only [hb] using rxByte_buffers b hs
    exact (reacted_rxq_buffers (react_cases t t.seq e (rxByte_some hb).1)).2 ht

/-- Bytes that end no reception stop in its header, its payload or its trailer (43_framing.md R113). -/
theorem unfinished_cases {bs : List Byte} (h : Unfinished bs) :
    bs.length < 4 ∨ (∃ l p, bs = [0xAB, 0xCD, l, 0x00] ++ p ∧ p.length < l.toNat) ∨
      ∃ p tr, bs = [0xAB, 0xCD, BitVec.ofNat 8 p.length, 0x00] ++ p ++ tr ∧ p.length ≤ 255 ∧ tr.length < 4 := by
  rcases h with h | ⟨l, p, rfl, hp⟩
  · exact .inl h
  by_cases hl : p.length < l.toNat
  · exact .inr (.inl ⟨l, p, rfl, hl⟩)
  have hlt := l.isLt
  have htake : (p.take l.toNat).length = l.toNat := by rw [List.length_take]; omega
  refine .inr (.inr ⟨p.take l.toNat, p.drop l.toNat, ?_, by omega, by rw [List.length_drop]; omega⟩)
  rw [htake, BitVec.ofNat_toNat, BitVec.setWidth_eq, List.append_assoc, List.take_append_drop]

/-- Of the block that takes them only the receive registers change, and it waits on. -/
theorem feed_unfinished_eq {t : State} {bs : List Byte} (h : Unfinished bs) (hr : t.rxs = .hdr) (hc : t.cnt = 0)
    (hb : t.Buffers) : ∃ len cnt hb tb rxb st, st ≠ RxStage.idle ∧
      feed bs t = { t with len := len, cnt := cnt, hb := hb, tb := tb, rxb := rxb, rxs := st, rxq := [] } := by
  rcases unfinished_cases h with h | ⟨l, p, rfl, hp⟩ | ⟨p, tr, rfl, hp, htr⟩
  · have hleft : t.stageLeft = 4 := by rw [stageLeft_hdr hr, hc]; rfl
    obtain ⟨hb, tb, rxb, cnt, hfeed⟩ := feed_short (hleft ▸ h)
    exact ⟨t.len, cnt, hb, tb, rxb, t.rxs, by simp [hr], hfeed⟩
  · have hl : l ≠ 0 := by rintro rfl; exact absurd hp (Nat.not_lt_zero _)
    obtain ⟨hb', tb, rxb, cnt, hfeed⟩ :=
      feed_short (q := p) (s := { t with hb := [0xAB, 0xCD, l, 0x00], len := l, cnt := 0, rxs := .pay }) hp
    rw [feed_header hr hc hb.1, if_neg hl]
    exact ⟨l, cnt, hb', tb, rxb, .pay, by simp, hfeed⟩
  · obtain ⟨hb', tb, rxb, cnt, hfeed⟩ := feed_short (q := tr) (s := { t with
      hb := [0xAB, 0xCD, BitVec.ofNat 8 p.length, 0x00], len := BitVec.ofNat 8 p.length, rxb := p ++ t.rxb.drop p.length,
      cnt := 0, rxs := .trl }) htr
    rw [feed_upToTrailer hr hc hb hp]
    exact ⟨BitVec.ofNat 8 p.length, cnt, hb', tb, rxb, .trl, by simp, hfeed⟩

/-- The exchange goes on, and its reception waits in the middle of a frame. -/
theorem feed_unfinished {t s : State} {sent bs : List Byte} {q : HostSeq} (hbs : Unfinished bs) (h : t.Awaits s sent q) :
    (feed bs t).Exchanged s sent ∧ (feed bs t).rxs ≠ .idle ∧ (feed bs t).seq = q := by
  have hbuffers := feed_buffers bs h.buffers
  obtain ⟨len, cnt, hb, tb, rxb, st, hst, hfeed⟩ := feed_unfinished_eq hbs h.rxs h.cnt h.buffers
  exact ⟨⟨hfeed ▸ h.img, hfeed ▸ h.cfg, hfeed ▸ h.inq, hfeed ▸ h.txq, hbuffers⟩, hfeed ▸ hst, hfeed ▸ h.seq⟩

/-! ### Attempts that fail as the inputs come in -/

theorem awaits_withInq {t s : State} {sent : List Byte} {q : HostSeq} (h : t.Awaits s sent q) (more : List Input) :
    ({ t with inq := more } : State).Awaits { s with inq := more } sent q :=
  ⟨⟨h.img, h.cfg, rfl, h.txq, h.buffers⟩, h.rxs, h.cnt, h.seq⟩

/-- A reception that waits on leaves the program as it is. -/
theorem facing_waiting {t : State} {more : List Input} (hr : t.rxs ≠ .idle) (hi : t.inq = more) : t.facing more = t := by
  rw [State.facing, programLeft_waiting hr, ← hi]

/-- A failed attempt ends the reception with a cause, whatever sequence waits for it, and the host goes on. -/
def State.FailsOn (t s : State) (sent : List Byte) (q : HostSeq) (inputs more : List Input) : Prop :=
  ∃ (u : State) (c : Cause), u.Ready { s with inq := more } sent ∧ ∀ n,
    Host.Core.run core (inputs.length + n) t = Host.Core.run core n ((feed [] (u.react q (.error c))).facing more)

/-- The timeout fails the attempt in whatever stage it finds it. -/
theorem timeout_failsOn {t s : State} {sent : List Byte} {q : HostSeq} {more : List Input}
    (h : t.Exchanged { s with inq := .timeout :: more } sent) (hr : t.rxs ≠ .idle) (hs : t.seq = q) (hq : t.rxq = []) :
    t.FailsOn s sent q [.timeout] more := by
  obtain ⟨himg, hcfg, hinq, htxq, hbuffers⟩ := h
  obtain ⟨c, hc⟩ : ∃ c, timeoutCause t.rxs = some c := by
    cases hst : t.rxs with
    | idle => exact absurd hst hr
    | hdr | pay | trl => exact ⟨_, rfl⟩
  have hready : ({ t.finish c.errReg with inq := more, seq := .ret } : State).Ready { s with inq := more } sent :=
    ⟨⟨himg, hcfg, rfl, htxq, hbuffers⟩, rfl, rfl, rfl⟩
  refine ⟨_, c, hready, fun n => ?_⟩
  rw [List.length_singleton, Nat.add_comm, run_succ (step_timeout_reception hinq hc hq), hs]
  rfl

/-- A reply cut short is no reply: the timeout behind it fails the attempt. -/
theorem unfinished_failsOn {t s : State} {sent bs : List Byte} {q : HostSeq} {more : List Input} (hbs : Unfinished bs)
    (h : t.Awaits { s with inq := .line bs :: .timeout :: more } sent q) (hq : t.rxq = []) :
    t.FailsOn s sent q [.line bs, .timeout] more := by
  have hstep := step_line_reception (more := .timeout :: more) h.inq (by simp [h.rxs]) hq
  obtain ⟨hexchanged, hwaits, hseq⟩ := feed_unfinished hbs (awaits_withInq h (.timeout :: more))
  obtain ⟨u, c, hu, hrun⟩ := timeout_failsOn (s := s) hexchanged hwaits hseq (feed_rxq bs _ hwaits)
  refine ⟨u, c, hu, fun n => ?_⟩
  rw [← hrun n, List.length_cons, Nat.add_right_comm, run_succ hstep, facing_waiting hwaits hexchanged.inq]

theorem badReply_failsOn {t s : State} {sent bs : List Byte} {q : HostSeq} {i : BitVec 8} {c : Cause} {more : List Input}
    (hbad : BadReply bs i c) (h : t.Awaits { s with inq := .line bs :: more } sent q) (hq : t.rxq = []) :
    t.FailsOn s sent q [.line bs] more := by
  have hstep := step_line_reception (more := more) h.inq (by simp [h.rxs]) hq
  obtain ⟨u, hu, hfeed⟩ := feed_reply (awaits_withInq h more) (.bad hbad)
  refine ⟨u, c, hu, fun n => ?_⟩
  rw [← hfeed [], List.append_nil, List.length_singleton, Nat.add_comm, run_succ hstep]

theorem attempt_failsOn {t s : State} {sent : List Byte} {q : HostSeq} {a more : List Input} (ha : FailedAttempt a)
    (h : t.Awaits { s with inq := a ++ more } sent q) (hq : t.rxq = []) : t.FailsOn s sent q a more := by
  unfold FailedAttempt at ha
  split at ha
  · exact timeout_failsOn h.toExchanged (by simp [h.rxs]) h.seq hq
  · exact unfinished_failsOn ha h hq
  · obtain ⟨i, c, hbad⟩ := ha
    exact badReply_failsOn hbad h hq
  · exact ha.elim

/-- Another attempt has been made: nothing has been raised, and the next one waits. -/
theorem awaits_facing {t s : State} {sent : List Byte} {q : HostSeq} {more : List Input}
    (h : t.Awaits { s with inq := more } sent q) :
    ((feed [] t).facing more).Awaits { s with inq := more } sent q ∧ ((feed [] t).facing more).rxq = [] := by
  have hwaits : (feed [] t).rxs ≠ .idle := by rw [feed_nil]; simp [h.rxs]
  rw [facing_waiting hwaits h.inq]
  exact ⟨⟨⟨h.img, h.cfg, h.inq, h.txq, h.buffers⟩, h.rxs, h.cnt, h.seq⟩, rfl⟩

theorem run_failedAttempts {s t : State} {next : AfterIdent} {n : Nat} {tries : List (List Input)} {more : List Input}
    (hn : n + tries.length ≤ 5) (htries : ∀ a ∈ tries, FailedAttempt a)
    (ht : t.Identifies { s with inq := tries.flatten ++ more } n next) (hq : t.rxq = []) :
    ∃ t' : State, t'.Identifies { s with inq := more } (n + tries.length) next ∧ t'.rxq = [] ∧
      ∀ m, Host.Core.run core (tries.flatten.length + m) t = Host.Core.run core m t' := by
  induction tries generalizing t n with
  | nil => exact ⟨t, ht, hq, fun m => by rw [List.flatten_nil, List.length_nil, Nat.zero_add]⟩
  | cons a tries ih =>
    rw [List.length_cons] at hn
    rw [List.flatten_cons, List.append_assoc] at ht
    obtain ⟨ha, htries⟩ := List.forall_mem_cons.mp htries
    obtain ⟨u, c, hu, hrun⟩ := attempt_failsOn ha ht hq
    obtain ⟨hnext, hempty⟩ := awaits_facing (identify_retries hu (by omega) next c)
    obtain ⟨t', ht', hq', hmore⟩ := ih (by omega) htries hnext hempty
    refine ⟨t', ?_, hq', fun m => ?_⟩
    · rwa [List.length_cons, Nat.add_comm tries.length, ← Nat.add_assoc]
    · rw [List.flatten_cons, List.length_append, Nat.add_assoc, hrun, hmore]

/-- The step that calls the sequence, on an empty line. -/
theorem step_identify {i : Instr} {next : AfterIdent} {s : State} {more : List Input} (hi : BeginsIdentify i next)
    (hb : s.busy = false) (hs : s.Buffers) (hq : s.rxq = []) (hinq : s.inq = encode i :: more) :
    ∃ t : State, t.Identifies { s with inq := more } 1 next ∧ t.rxq = [] ∧ step s = .next t := by
  obtain ⟨t, ht, hexec⟩ := exec_identify (s := { s with inq := more }) hi hb hs
  have hissues : issuesOp (encode i) = true := by
    have hissued := hi.1
    unfold issuedInstr at hissued
    split at hissued
    · next henc => rw [henc]; rfl
    · next henc => rw [henc]; rfl
    · cases hissued
  obtain ⟨hnext, hempty⟩ := awaits_facing ht
  refine ⟨_, hnext, hempty, ?_⟩
  rw [step_cons hinq, runInput_decoded (decode_encode_of_issued hi.1), hexec]
  rw [show feed ({ s with inq := more } : State).rxq t = feed [] t from congrArg (feed · t) hq]
  exact hostRuns_reception (.inl ⟨hissues, hb⟩) ht.inq

/-- An exchange that has ended leaves the inputs to come by what it came to (R246). -/
theorem ended_facing {t s : State} {sent left : List Byte} {e : ErrReg} {r : Result} (h : t.Ended s sent left e r)
    (more : List Input) : (t.facing more).Ended { s with inq := t.programLeft more } sent left e r := by
  have hinq : t.facing more = { t with inq := t.programLeft more } := rfl
  rw [State.Ended] at h
  rw [State.Ended, hinq]
  exact congrArg (fun u : State => { u with inq := t.programLeft more }) h

theorem ended_rxs_out {t s : State} {sent left : List Byte} {e : ErrReg} {r : Result} (h : t.Ended s sent left e r) :
    t.rxs = .idle ∧ t.out = r := by
  rw [h]
  exact ⟨rfl, rfl⟩

/-- Settles O43: each failed attempt sends the command again (`feed_badReplies`, `run_failedAttempts`), and the reply that
parses answers (`identify_answers`). -/
theorem identifySucceeds : Obligations.IdentifySucceeds := by
  intro r rest s hb hs hr
  refine ⟨_, _, _, commandFrame_ident s, obfBytes_xorsKey s.cfg r.1, exec_rspIdent _ hb, fun bads hlen hbad hq => ?_,
    fun tries more hlen htries hq hinq => ?_⟩
  · obtain ⟨t, ht, hexec⟩ := exec_identify drvIdentify_begins hb hs
    obtain ⟨t', ht', hfeed⟩ := feed_badReplies hlen hbad ht
    rw [hq, List.append_assoc, hfeed] at hexec
    exact ⟨_, hexec, identify_answers ht' hr rest⟩
  · obtain ⟨t, ht, hempty, hstep⟩ := step_identify drvIdentify_begins hb hs hq hinq
    obtain ⟨t', ht', hempty', hrun⟩ := run_failedAttempts (by omega) htries ht hempty
    have hended := identify_answers (awaits_withInq ht' more) hr rest
    have hlast := step_line_reception (more := more) ht'.inq (by simp [ht'.rxs]) hempty'
    rw [Nat.add_comm 1] at hended
    refine ⟨_, (run_succ hstep _).trans ((hrun 1).trans (run_succ hlast 0)), ?_⟩
    have hfacing := ended_facing hended more
    rw [programLeft_bytes (ended_rxs_out hended).2] at hfacing
    exact hfacing

/-- Settles O44: four failed attempts as in O43, and the fifth fails the identify (`identify_fails`). -/
theorem identifyFailsAfterFive : Obligations.IdentifyFailsAfterFive := by
  intro i s hi hb hs
  obtain ⟨next, hbegins⟩ : ∃ next, BeginsIdentify i next := by
    simp only [List.mem_cons, List.not_mem_nil, or_false] at hi
    rcases hi with rfl | rfl | rfl
    · exact ⟨_, drvIdentify_begins⟩
    · exact ⟨_, syncDownload_begins⟩
    · exact ⟨_, syncUpload_begins⟩
  refine ⟨_, commandFrame_ident s, fun bads rest hlen hbad hq => ?_, fun tries more hlen htries hq hinq => ?_⟩
  · obtain ⟨bads, b, rfl, hinit⟩ := exists_concat_of_length hlen
    obtain ⟨hbad, hlast⟩ := List.forall_mem_append.mp hbad
    obtain ⟨k, c, hb5⟩ := hlast b (List.mem_singleton_self b)
    obtain ⟨t, ht, hexec⟩ := exec_identify hbegins hb hs
    obtain ⟨t', ht', hfeed⟩ := feed_badReplies hinit.le hbad ht
    rw [hinit] at ht'
    obtain ⟨u, hu, hfeed5⟩ := feed_reply ht' (.bad hb5)
    rw [hq, List.flatten_concat, List.append_assoc, hfeed, hfeed5] at hexec
    exact ⟨_, hexec, identify_fails hu next c rest⟩
  · obtain ⟨tries, a, rfl, hinit⟩ := exists_concat_of_length hlen
    obtain ⟨htries, hlast⟩ := List.forall_mem_append.mp htries
    rw [List.flatten_concat, List.append_assoc] at hinq
    obtain ⟨t, ht, hempty, hstep⟩ := step_identify hbegins hb hs hq hinq
    obtain ⟨t', ht', hempty', hrun⟩ := run_failedAttempts (by omega) htries ht hempty
    rw [hinit] at ht'
    obtain ⟨u, c, hu, hrun5⟩ := attempt_failsOn (hlast a (List.mem_singleton_self a)) ht' hempty'
    have hended := identify_fails hu next c []
    obtain ⟨hidle, hout⟩ := ended_rxs_out hended
    have hfacing := ended_facing hended more
    rw [programLeft_error hidle hout] at hfacing
    refine ⟨_, ?_, hfacing⟩
    rw [run_succ hstep, List.flatten_concat, List.length_append, hrun]
    exact hrun5 0

end Sys2Proof.Machine
end

section
/-! What the two whole-image sequences have in common (47_host_sequences.md R241, R242): blocks of 128 bytes in rising order,
and one frame for each. -/

namespace Sys2Proof.Machine

/-- The frames of the blocks before block `n`, where `F k` is that of block `k`. -/
def blockFrames (F : Nat → List Byte) (n : Nat) : List (List Byte) := (List.range n).map F

theorem blockFrames_length (F : Nat → List Byte) (n : Nat) : (blockFrames F n).length = n := by
  rw [blockFrames, List.length_map, List.length_range]

theorem blockFrames_getD (F : Nat → List Byte) {k n : Nat} (h : k < n) : (blockFrames F n).getD k [] = F k := by
  have hk : k < (blockFrames F n).length := by rwa [blockFrames_length]
  rw [List.getD_eq_getElem _ _ hk]
  simp [blockFrames]

theorem blockFrames_succ_flatten (F : Nat → List Byte) (n : Nat) :
    (blockFrames F (n + 1)).flatten = (blockFrames F n).flatten ++ F n := by
  rw [blockFrames, List.range_succ, List.map_append, List.map_singleton, List.flatten_concat, blockFrames]

/-- Byte `j` of piece `k`, where all pieces have one length. -/
theorem byteAt_flatten {pieces : List (List Byte)} {n : Nat} (h : ∀ p ∈ pieces, p.length = n) {k j : Nat}
    (hk : k < pieces.length) (hj : j < n) : byteAt pieces.flatten (n * k + j) = byteAt pieces[k] j := by
  induction pieces generalizing k with
  | nil => cases hk
  | cons p pieces ih =>
    obtain ⟨hp, hpieces⟩ := List.forall_mem_cons.mp h
    rw [List.flatten_cons]
    cases k with
    | zero => rw [Nat.mul_zero, Nat.zero_add, byteAt_append_left (hp ▸ hj), List.getElem_cons_zero]
    | succ k =>
      have hplace : n * (k + 1) + j - p.length = n * k + j := by rw [hp, Nat.mul_succ]; omega
      rw [byteAt_append_right (by rw [hp, Nat.mul_succ]; omega), hplace, List.getElem_cons_succ]
      exact ih hpieces (Nat.lt_of_succ_lt_succ hk)

theorem length_flatten_of_forall {pieces : List (List Byte)} {n : Nat} (h : ∀ p ∈ pieces, p.length = n) :
    pieces.flatten.length = n * pieces.length := by
  rw [List.length_flatten, List.map_congr_left h, List.map_const', List.sum_replicate, smul_eq_mul, Nat.mul_comm]

end Sys2Proof.Machine
end

section
/-! The download (47_host_sequences.md R241): 64 reads, and one write of the whole image at the end. -/

namespace Sys2Proof.Machine

/-! ### One block -/

/-- The frame that reads block `k`. -/
def readFrame (c : Config) (k : Nat) : List Byte := frameBytes c (cmdRead c (BitVec.ofNat 16 (128 * k)) 128)

/-- The data of a block in its reply (R134). -/
def blockData (c : Config) (r : Reply) : List Byte := ((obfBytes c.key 0 r.1).drop 8).take 128

/-- What a download has sent when it waits for the reply of block `k`. -/
def downloadSent (c : Config) (k : Nat) : List Byte := identFrame c ++ (blockFrames (readFrame c) (k + 1)).flatten

theorem downloadSent_zero (c : Config) : downloadSent c 0 = identFrame c ++ readFrame c 0 := by
  rw [downloadSent, blockFrames_succ_flatten]
  rfl

theorem downloadSent_succ (c : Config) (k : Nat) : downloadSent c (k + 1) = downloadSent c k ++ readFrame c (k + 1) := by
  rw [downloadSent, blockFrames_succ_flatten, ← List.append_assoc, downloadSent]

/-- The block waits for the reply of block `k`; `buf` is what it has received. -/
abbrev State.Downloads (t s : State) (k : Nat) (buf fw : List Byte) : Prop :=
  t.Awaits s (downloadSent s.cfg k) (.download k buf fw)

theorem readCommand_fits {c : Config} (h : WfWire c) (offset : Half) (length : Byte) :
    (cmdRead c offset length).length ≤ 255 := by
  rw [cmdRead_length]
  exact h.1

theorem commandFrame_readBlock {s : State} (h : WfWire s.cfg) (k : Nat) :
    CommandFrame s (.cmdRead (BitVec.ofNat 16 (128 * k)) 128) (readFrame s.cfg k) :=
  commandFrame_read _ _ (readCommand_fits h _ _)

theorem readReply_frame (c : Config) {r : Reply} (h : 136 ≤ r.1.length) :
    readReply 128 (.ok (obfBytes c.key 0 r.1)) = .ok (blockData c r) :=
  rspRead_enough (by rw [obfBytes_length]; exact Nat.le_sub_of_add_le h)

theorem readReply_frame_short (c : Config) {r : Reply} (h : r.1.length < 136) :
    readReply 128 (.ok (obfBytes c.key 0 r.1)) = .error .shortReply :=
  rspRead_short (by rw [obfBytes_length]; change r.1.length - 8 < 128; omega)

theorem blockData_length (c : Config) {r : Reply} (h : 136 ≤ r.1.length) : (blockData c r).length = 128 := by
  rw [blockData, List.length_take, List.length_drop, obfBytes_length]
  omega

/-- R134, R90: the data stand behind the eight header bytes, under the key. -/
theorem byteAt_blockData (c : Config) {r : Reply} (h : 136 ≤ r.1.length) {j : Nat} (hj : j < 128) :
    byteAt (blockData c r) j = byteAt r.1 (8 + j) ^^^ byteAt c.key ((8 + j) % 16) := by
  rw [blockData, byteAt_take hj, byteAt_drop, (obfBytes_xorsKey c r.1).2 _ (by omega)]

theorem downloadBlock_awaits {u s : State} {sent : List Byte} (h : u.Ready s sent) (hw : WfWire s.cfg) (k : Nat)
    (buf fw : List Byte) : (u.downloadBlock k buf fw).Awaits s (sent ++ readFrame s.cfg k) (.download k buf fw) := by
  rw [State.downloadBlock, h.cfg]
  exact sendAndWait_awaits h.toExchanged (readCommand_fits hw _ _) _

theorem react_download_ok {s : State} {e : ParseEnd} {d : List Byte} (h : s.seq = .ret) (hd : readReply 128 e = .ok d)
    (k : Nat) (buf fw : List Byte) : s.react (.download k buf fw) e =
      if k < 63 then s.downloadBlock (k + 1) (buf ++ d) fw else s.finishDownload (buf ++ d) fw := by
  cases s
  cases h
  simp only [State.react, hd]

theorem react_download_error {s : State} {e : ParseEnd} {c : Cause} (h : s.seq = .ret)
    (hd : readReply 128 e = .error c) (k : Nat) (buf fw : List Byte) : s.react (.download k buf fw) e = s.raise c := by
  cases s
  cases h
  simp only [State.react, hd]

/-! ### The blocks in order -/

theorem exec_syncDownload {s : State} {r0 : Reply} {q : List Byte} (hb : s.busy = false) (hs : s.Buffers)
    (hw : WfWire s.cfg) (hr0 : r0.1.length ≤ 255) (hq : s.rxq = replyFrame r0 ++ q) :
    ∃ t : State, t.Downloads s 0 [] (replyFirmware s.cfg r0) ∧ exec .syncDownload s = .next (feed q t) := by
  obtain ⟨t, ht, hexec⟩ := exec_identify syncDownload_begins hb hs
  obtain ⟨u, hu, hfeed⟩ := feed_reply ht (.frame r0 hr0)
  rw [hq, hfeed, react_identify_ok hu.seq] at hexec
  rw [identSent_one] at hu
  refine ⟨_, ?_, hexec⟩
  rw [State.Downloads, downloadSent_zero]
  exact downloadBlock_awaits hu hw 0 [] _

theorem feed_readReplies {s t : State} {fw : List Byte} {rs : List Reply} (hw : WfWire s.cfg) (hlen : rs.length ≤ 63)
    (hrs : ∀ r ∈ rs, 136 ≤ r.1.length ∧ r.1.length ≤ 255) (ht : t.Downloads s 0 [] fw) :
    ∃ t' : State, t'.Downloads s rs.length (rs.map (blockData s.cfg)).flatten fw ∧
      ∀ rest, feed ((rs.map replyFrame).flatten ++ rest) t = feed rest t' := by
  have hreplies := feed_replies (s := s) (S := downloadSent s.cfg) (replies := rs.map replyFrame)
    (Q := fun k => .download k ((rs.take k).map (blockData s.cfg)).flatten fw) (fun k hk t ht => ?_) ht
  · rwa [List.length_map, List.take_length] at hreplies
  rw [List.length_map] at hk
  obtain ⟨hlong, hshort⟩ := hrs rs[k] (List.getElem_mem hk)
  rw [List.getElem_map]
  refine feed_reply_awaits ht (.frame _ hshort) fun u hu => ?_
  have hnext := downloadBlock_awaits hu hw (k + 1) (((rs.take k).map (blockData s.cfg)).flatten ++ blockData s.cfg rs[k]) fw
  rw [react_download_ok hu.seq (readReply_frame s.cfg hlong), if_pos (by omega), downloadSent_succ,
    List.take_succ_eq_append_getElem hk, List.map_append, List.map_singleton, List.flatten_concat]
  exact hnext

/-- A download up to the reply of a block, where the replies before it bring their data. -/
theorem exec_syncDownload_blocks {s : State} {r0 : Reply} {rs : List Reply} {q : List Byte} (hb : s.busy = false)
    (hs : s.Buffers) (hw : WfWire s.cfg) (hr0 : r0.1.length ≤ 255) (hlen : rs.length ≤ 63)
    (hrs : ∀ r ∈ rs, 136 ≤ r.1.length ∧ r.1.length ≤ 255)
    (hq : s.rxq = replyFrame r0 ++ (rs.map replyFrame).flatten ++ q) :
    ∃ t : State, t.Downloads s rs.length (rs.map (blockData s.cfg)).flatten (replyFirmware s.cfg r0) ∧
      exec .syncDownload s = .next (feed q t) := by
  rw [List.append_assoc] at hq
  obtain ⟨t, ht, hexec⟩ := exec_syncDownload hb hs hw hr0 hq
  obtain ⟨t', ht', hfeed⟩ := feed_readReplies hw hlen hrs ht
  exact ⟨t', ht', hexec.trans (congrArg _ (hfeed q))⟩

/-! ### The end -/

/-- The last step of a download: the whole image is replaced. -/
theorem finishDownload_ended {u s : State} {sent buf : List Byte} (h : u.Ready s sent) (hi : s.ImageWf)
    (hbuf : buf.length = 8192) (fw rest : List Byte) :
    (feed rest (u.finishDownload buf fw)).EndedStoring s sent rest ⟨0, 0⟩ (.synced fw) ∧
      ∀ x, x < 8192 → (feed rest (u.finishDownload buf fw)).rd x = byteAt buf x := by
  have himage : 0 + buf.length ≤ Config.imgSize := by rw [hbuf]
  have hfinish : u.finishDownload buf fw = (u.wrBytes 0 buf).succeed (.synced fw) := by
    rw [State.finishDownload, memWriteBytes_eq, if_pos himage, map_ok, commit_ok]
  obtain ⟨⟨himg, hcfg, hinq, htxq, -⟩, hrxs, hcnt, hseq⟩ := h
  rw [hfinish, feed_idle (s := (u.wrBytes 0 buf).succeed (.synced fw)) hrxs]
  constructor
  · simp only [State.EndedStoring, State.succeed, State.wrBytes, hcfg, hinq, htxq, hrxs, hcnt, hseq, ErrReg.ok]
  · intro x hx
    have hwf : Memory.wf u.cfg.startImage u.img = true := by rw [himg, hcfg]; exact hi
    exact (rd_wrBytes hwf x himage).trans (if_pos ⟨Nat.zero_le x, by omega⟩)

/-- Settles O48: 63 replies bring the download to its last block (`exec_syncDownload_blocks`), whose reply ends it
(`finishDownload_ended`). -/
theorem downloadReplacesImage : Obligations.DownloadReplacesImage := by
  intro r0 rs rest s hb hs hi hw hr0 hlen hrs hq
  have hdata : ∀ p ∈ rs.map (blockData s.cfg), p.length = 128 := by
    simp only [List.mem_map]
    rintro _ ⟨r, hr, rfl⟩
    exact blockData_length s.cfg (hrs r hr).1
  have hbuf : (rs.map (blockData s.cfg)).flatten.length = 8192 := by
    rw [length_flatten_of_forall hdata, List.length_map, hlen]
  obtain ⟨t, hexec, hended, hread⟩ : ∃ t, exec .syncDownload s = .next t ∧
      t.EndedStoring s (downloadSent s.cfg 63) rest ⟨0, 0⟩ (.synced (replyFirmware s.cfg r0)) ∧
      ∀ x, x < 8192 → t.rd x = byteAt (rs.map (blockData s.cfg)).flatten x := by
    obtain ⟨init, last, rfl, hinit⟩ := exists_concat_of_length hlen
    obtain ⟨hrs, hlast⟩ := List.forall_mem_append.mp hrs
    obtain ⟨hlong, hshort⟩ := hlast last (List.mem_singleton_self last)
    rw [List.map_append, List.map_singleton, List.flatten_concat] at hq hbuf ⊢
    obtain ⟨t, ht, hexec⟩ := exec_syncDownload_blocks (q := replyFrame last ++ rest) hb hs hw hr0 hinit.le hrs
      (by simpa only [List.append_assoc] using hq)
    obtain ⟨u, hu, hfeed⟩ := feed_reply ht (.frame last hshort)
    rw [hfeed, react_download_ok hu.seq (readReply_frame s.cfg hlong), if_neg (by omega)] at hexec
    rw [hinit] at hu
    exact ⟨_, hexec, finishDownload_ended hu hi hbuf _ rest⟩
  refine ⟨_, blockFrames (readFrame s.cfg) 64, _, _, t, commandFrame_ident s, blockFrames_length _ 64, fun k hk => ?_,
    obfBytes_xorsKey s.cfg r0.1, exec_rspIdent _ hb, hexec, hended, fun k j hk hj => ?_⟩
  · rw [blockFrames_getD _ hk]
    exact commandFrame_readBlock hw k
  · have hk' : k < rs.length := by omega
    rw [hread _ (by omega), byteAt_flatten hdata (by rwa [List.length_map]) hj, List.getElem_map,
      byteAt_blockData s.cfg (hrs _ (List.getElem_mem hk')).1 hj, List.getD_eq_getElem _ _ hk']

end Sys2Proof.Machine
end

section
/-! The upload (47_host_sequences.md R242): 58 writes of the image's blocks, and one reset frame that no reply follows; and
where an upload or a download stops (R241 to R243, 60_exceptions.md R265). -/

namespace Sys2Proof.Machine

/-! ### One block -/

/-- The frame that writes block `k` of the image. -/
def writeFrame (s : State) (k : Nat) : List Byte :=
  frameBytes s.cfg (writeCommand s.cfg (s.rdBytes (128 * k) 128) (BitVec.ofNat 16 (128 * k)))

/-- What an upload has sent when it waits for the reply of block `k`. -/
def uploadSent (s : State) (k : Nat) : List Byte := identFrame s.cfg ++ (blockFrames (writeFrame s) (k + 1)).flatten

theorem uploadSent_zero (s : State) : uploadSent s 0 = identFrame s.cfg ++ writeFrame s 0 := by
  rw [uploadSent, blockFrames_succ_flatten]
  rfl

theorem uploadSent_succ (s : State) (k : Nat) : uploadSent s (k + 1) = uploadSent s k ++ writeFrame s (k + 1) := by
  rw [uploadSent, blockFrames_succ_flatten, ← List.append_assoc, uploadSent]

/-- The block waits for the reply of block `k`. -/
abbrev State.Uploads (t s : State) (k : Nat) : Prop := t.Awaits s (uploadSent s k) (.upload k)

theorem writeBlock_fits {s : State} (h : s.cfg.wpLen + 136 ≤ 255) (k : Nat) :
    s.cfg.wpLen + 8 + (s.rdBytes (128 * k) 128).length ≤ 255 := by rwa [rdBytes_length, Nat.add_assoc]

theorem commandFrame_writeBlock {s : State} (h : s.cfg.wpLen + 136 ≤ 255) (k : Nat) :
    CommandFrame s (.cmdWrite (s.rdBytes (128 * k) 128) (BitVec.ofNat 16 (128 * k))) (writeFrame s k) :=
  commandFrame_write (writeBlock_fits h k) _

/-- R242: a block is read out of the image as the upload found it. -/
theorem uploadBlock_awaits {u s : State} {sent : List Byte} (h : u.Ready s sent) (hw : s.cfg.wpLen + 136 ≤ 255) (k : Nat) :
    (u.uploadBlock k).Awaits s (sent ++ writeFrame s k) (.upload k) := by
  have hfits := writeBlock_fits hw k
  have hread : u.rdBytes (Config.block * k) Config.block = s.rdBytes (128 * k) 128 :=
    rdBytes_congr fun i _ => by rw [State.rd, State.rd, h.img, h.cfg]
  rw [State.uploadBlock, hread, h.cfg, cmdWrite_eq_writeCommand hfits]
  exact sendAndWait_awaits h.toExchanged (writeCommand_length hfits _) _

section
variable {s : State} {k : Nat} {e : ParseEnd} (h : s.seq = .ret)
include h

theorem react_upload_ack (hd : writeReply s.cfg (BitVec.ofNat 16 (128 * k)) e = .ok true) :
    s.react (.upload k) e = if k < 57 then s.uploadBlock (k + 1) else s.sendReset := by
  cases s
  cases h
  simp only [State.react, hd]

theorem react_upload_nak (hd : writeReply s.cfg (BitVec.ofNat 16 (128 * k)) e = .ok false) :
    s.react (.upload k) e = s.raise .writeNak := by
  cases s
  cases h
  simp only [State.react, hd]

theorem react_upload_error {c : Cause} (hd : writeReply s.cfg (BitVec.ofNat 16 (128 * k)) e = .error c) :
    s.react (.upload k) e = s.raise c := by
  cases s
  cases h
  simp only [State.react, hd]

end

/-- The reply of block `k` is judged by the echo of the block's address (R138). -/
theorem writeReply_block {c : Config} {r : Reply} {d : List Byte} (hd : XorsKey c r.1 d) {k : Nat} (hk : k < 58) :
    ∃ b, writeReply c (BitVec.ofNat 16 (128 * k)) (.ok (obfBytes c.key 0 r.1)) = .ok b ∧
      (b = true ↔ Acknowledges c d (128 * k)) := by
  have hoffset : (BitVec.ofNat 16 (128 * k)).toNat = 128 * k := Nat.mod_eq_of_lt (by omega)
  have hiff := rspWrite_iff c d (BitVec.ofNat 16 (128 * k))
  rw [hoffset] at hiff
  exact ⟨_, by rw [← xorsKey_eq hd]; rfl, hiff⟩

/-- The reply `r` acknowledges block `k`. -/
def AcksBlock (c : Config) (r : Reply) (k : Nat) : Prop := ∃ d, XorsKey c r.1 d ∧ Acknowledges c d (128 * k)

theorem writeReply_acks {c : Config} {r : Reply} {k : Nat} (h : AcksBlock c r k) (hk : k < 58) :
    writeReply c (BitVec.ofNat 16 (128 * k)) (.ok (obfBytes c.key 0 r.1)) = .ok true := by
  obtain ⟨d, hd, hack⟩ := h
  obtain ⟨b, hb, hiff⟩ := writeReply_block hd hk
  rwa [hiff.mpr hack] at hb

/-! ### The blocks in order -/

theorem exec_syncUpload {s : State} {r0 : Reply} {q : List Byte} (hb : s.busy = false) (hs : s.Buffers)
    (hw : s.cfg.wpLen + 136 ≤ 255) (hr0 : r0.1.length ≤ 255) (hq : s.rxq = replyFrame r0 ++ q) :
    ∃ t : State, t.Uploads s 0 ∧ exec .syncUpload s = .next (feed q t) := by
  obtain ⟨t, ht, hexec⟩ := exec_identify syncUpload_begins hb hs
  obtain ⟨u, hu, hfeed⟩ := feed_reply ht (.frame r0 hr0)
  rw [hq, hfeed, react_identify_ok hu.seq] at hexec
  rw [identSent_one] at hu
  refine ⟨_, ?_, hexec⟩
  rw [State.Uploads, uploadSent_zero]
  exact uploadBlock_awaits hu hw 0

theorem feed_writeReplies {s t : State} {rs : List Reply} (hw : s.cfg.wpLen + 136 ≤ 255) (hlen : rs.length ≤ 57)
    (hrs : ∀ r ∈ rs, r.1.length ≤ 255) (hacks : ∀ k, ∀ hk : k < rs.length, AcksBlock s.cfg rs[k] k) (ht : t.Uploads s 0) :
    ∃ t' : State, t'.Uploads s rs.length ∧ ∀ rest, feed ((rs.map replyFrame).flatten ++ rest) t = feed rest t' := by
  have hreplies := feed_replies (s := s) (S := uploadSent s) (replies := rs.map replyFrame) (Q := fun k => .upload k)
    (fun k hk t ht => ?_) ht
  · rwa [List.length_map] at hreplies
  rw [List.length_map] at hk
  rw [List.getElem_map]
  refine feed_reply_awaits ht (.frame _ (hrs _ (List.getElem_mem hk))) fun u hu => ?_
  have hack := writeReply_acks (hacks k hk) (by omega)
  rw [← hu.cfg] at hack ⊢
  rw [react_upload_ack hu.seq hack, if_pos (by omega), uploadSent_succ]
  exact uploadBlock_awaits hu hw (k + 1)

/-- An upload up to the reply of a block, where the replies before it acknowledge. -/
theorem exec_syncUpload_blocks {s : State} {r0 : Reply} {rs : List Reply} {q : List Byte} (hb : s.busy = false)
    (hs : s.Buffers) (hw : s.cfg.wpLen + 136 ≤ 255) (hr0 : r0.1.length ≤ 255) (hlen : rs.length ≤ 57)
    (hrs : ∀ r ∈ rs, r.1.length ≤ 255) (hacks : ∀ k, ∀ hk : k < rs.length, AcksBlock s.cfg rs[k] k)
    (hq : s.rxq = replyFrame r0 ++ (rs.map replyFrame).flatten ++ q) :
    ∃ t : State, t.Uploads s rs.length ∧ exec .syncUpload s = .next (feed q t) := by
  rw [List.append_assoc] at hq
  obtain ⟨t, ht, hexec⟩ := exec_syncUpload hb hs hw hr0 hq
  obtain ⟨t', ht', hfeed⟩ := feed_writeReplies hw hlen hrs hacks ht
  exact ⟨t', ht', hexec.trans (congrArg _ (hfeed q))⟩

/-! ### The end -/

/-- The frame of `CMD.RESET` (R139). -/
def resetFrame (c : Config) : List Byte := frameBytes c (cmdReset c)

theorem cmdReset_fits (c : Config) : (cmdReset c).length ≤ 255 := by rw [cmdReset_length]; decide

theorem commandFrame_reset (s : State) : CommandFrame s .cmdReset (resetFrame s.cfg) :=
  commandFrame_of_exec (exec_cmdReset rfl) (cmdReset_fits s.cfg)

/-- The last step of an upload: a reset frame, and no reply is read. -/
theorem sendReset_ended {u s : State} {sent : List Byte} (h : u.Ready s sent) (rest : List Byte) :
    (feed rest u.sendReset).Ended s (sent ++ resetFrame s.cfg) rest ⟨0, 0⟩ .done := by
  rw [State.sendReset, h.cfg, sendFrame_ok (cmdReset_fits s.cfg), map_ok, commit_ok]
  exact ready_succeed_ended (sent_ready h (cmdReset s.cfg)) rest .done

/-- Settles O49: 57 acknowledgements bring the upload to its last block (`exec_syncUpload_blocks`), whose own has the reset
frame sent (`sendReset_ended`). -/
theorem uploadSendsPrefix : Obligations.UploadSendsPrefix := by
  intro r0 rs rest s hb hs _ hw hr0 hlen hrs hacks hq
  have hacks (k : Nat) (hk : k < rs.length) : AcksBlock s.cfg rs[k] k := by
    rw [← List.getD_eq_getElem rs ([], 0, 0) hk]
    exact hacks k (by omega)
  obtain ⟨t, hexec, hended⟩ : ∃ t, exec .syncUpload s = .next t ∧
      t.Ended s (uploadSent s 57 ++ resetFrame s.cfg) rest ⟨0, 0⟩ .done := by
    obtain ⟨init, last, rfl, hinit⟩ := exists_concat_of_length hlen
    obtain ⟨hrs, hlast⟩ := List.forall_mem_append.mp hrs
    rw [List.map_append, List.map_singleton, List.flatten_concat] at hq
    have hinits (k : Nat) (hk : k < init.length) : AcksBlock s.cfg init[k] k := by
      have hack := hacks k (by omega)
      rwa [List.getElem_append_left hk] at hack
    obtain ⟨t, ht, hexec⟩ := exec_syncUpload_blocks (q := replyFrame last ++ rest) hb hs hw hr0 hinit.le hrs hinits
      (by simpa only [List.append_assoc] using hq)
    obtain ⟨u, hu, hfeed⟩ := feed_reply ht (.frame last (hlast last (List.mem_singleton_self last)))
    rw [hinit] at hu hfeed
    have hack : AcksBlock s.cfg last 57 := by simpa [← hinit] using hacks init.length (by omega)
    have hreply := writeReply_acks hack (by omega)
    rw [← hu.cfg] at hreply hfeed
    rw [hfeed, react_upload_ack hu.seq hreply, if_neg (by omega)] at hexec
    exact ⟨_, hexec, sendReset_ended hu rest⟩
  refine ⟨_, blockFrames (writeFrame s) 58, _, t, commandFrame_ident s, blockFrames_length _ 58, fun k hk => ?_,
    commandFrame_reset s, hexec, hended⟩
  rw [blockFrames_getD _ hk]
  exact commandFrame_writeBlock hw k

/-! ### The first reply that fails -/

/-- A download at block `k` whose reply comes to a cause. -/
theorem downloads_stops {s t : State} {k : Nat} {buf fw bad : List Byte} {e : ParseEnd} {c : Cause}
    (h : t.Downloads s k buf fw) (he : ReplyEnds s.cfg bad e) (hc : readReply 128 e = .error c) (rest : List Byte) :
    (feed (bad ++ rest) t).Ended s (downloadSent s.cfg k) rest c.errReg (.error c) := by
  obtain ⟨u, hu, hfeed⟩ := feed_reply h he
  rw [hfeed, react_download_error hu.seq hc]
  exact ready_raise_ended hu rest c

/-- An upload at block `k` whose reply does not acknowledge. -/
theorem uploads_stops_nak {s t : State} {k : Nat} {bad : List Byte} {e : ParseEnd} (h : t.Uploads s k)
    (he : ReplyEnds s.cfg bad e) (hn : writeReply s.cfg (BitVec.ofNat 16 (128 * k)) e = .ok false) (rest : List Byte) :
    (feed (bad ++ rest) t).Ended s (uploadSent s k) rest ⟨2, 4⟩ (.error .writeNak) := by
  obtain ⟨u, hu, hfeed⟩ := feed_reply h he
  rw [← hu.cfg] at hn
  rw [hfeed, react_upload_nak hu.seq hn]
  exact ready_raise_ended hu rest .writeNak

/-- An upload at block `k` whose reply is malformed. -/
theorem uploads_stops_bad {s t : State} {k : Nat} {bad : List Byte} {i : BitVec 8} {c : Cause} (h : t.Uploads s k)
    (hbad : BadReply bad i c) (rest : List Byte) :
    (feed (bad ++ rest) t).Ended s (uploadSent s k) rest ⟨1, i⟩ (.error c) := by
  obtain ⟨u, hu, hfeed⟩ := feed_reply h (.bad hbad)
  rw [hfeed, react_upload_error hu.seq (writeReply_bad hbad u.cfg _), ← (badReply_cause hbad).1]
  exact ready_raise_ended hu rest c

/-- Settles O50: the replies before the failing one bring the sequence to its block (`exec_syncDownload_blocks`,
`exec_syncUpload_blocks`), where the cause is raised. -/
theorem syncStopsAtFirstFailure : Obligations.SyncStopsAtFirstFailure := by
  intro r0 rs bad rest e c s hb hs hwire hr0 hq
  rw [List.append_assoc _ bad] at hq
  refine ⟨fun hlen hrs hfails => ?_, fun hw hlen hrs hacks hfails => ?_⟩
  · obtain ⟨t, ht, hexec⟩ := exec_syncDownload_blocks hb hs hwire hr0 (by omega) hrs hq
    have hended : (feed (bad ++ rest) t).Ended s (downloadSent s.cfg rs.length) rest e (.error c) := by
      rcases hfails with ⟨r, rfl, hshort, rfl, rfl⟩ | ⟨i, hbad, rfl⟩
      · exact downloads_stops ht (.frame r (by omega)) (readReply_frame_short s.cfg hshort) rest
      · rw [← (badReply_cause hbad).1]
        exact downloads_stops ht (.bad hbad) (readReply_bad hbad 128) rest
    refine ⟨_, blockFrames (readFrame s.cfg) (rs.length + 1), _, commandFrame_ident s, blockFrames_length _ _,
      fun k hk => ?_, hexec, hended⟩
    rw [blockFrames_getD _ (Nat.lt_succ_of_le hk)]
    exact commandFrame_readBlock hwire k
  · have hacks (k : Nat) (hk : k < rs.length) : AcksBlock s.cfg rs[k] k := by
      rw [← List.getD_eq_getElem rs ([], 0, 0) hk]
      exact hacks k hk
    obtain ⟨t, ht, hexec⟩ := exec_syncUpload_blocks hb hs hw hr0 (by omega) hrs hacks hq
    have hended : (feed (bad ++ rest) t).Ended s (uploadSent s rs.length) rest e (.error c) := by
      rcases hfails with ⟨r, d, rfl, hr, hd, hnak, rfl, rfl⟩ | ⟨i, hbad, rfl⟩
      · obtain ⟨b, hreply, hiff⟩ := writeReply_block hd hlen
        rw [Bool.eq_false_iff.mpr (mt hiff.mp hnak)] at hreply
        exact uploads_stops_nak ht (.frame r hr) hreply rest
      · exact uploads_stops_bad ht hbad rest
    refine ⟨_, blockFrames (writeFrame s) (rs.length + 1), _, commandFrame_ident s, blockFrames_length _ _,
      fun k hk => ?_, hexec, hended⟩
    rw [blockFrames_getD _ (Nat.lt_succ_of_le hk)]
    exact commandFrame_writeBlock hw k

end Sys2Proof.Machine
end

section
/-! The image and the end of an operation (60_exceptions.md R264, R250): of everything an instruction or event can do, only
what ends an operation with success writes the image. Where bytes are taken, the one sequence that stores, the end of a
download, leaves the block idle, so that no later byte of the same delivery starts anything behind it. -/

namespace Sys2Proof.Machine

/-- What the obligation says of a state whose image has changed: an operation has ended with success, and it is one that
stores. -/
def State.EndedWell (t : State) : Prop :=
  t.err = ⟨0, 0⟩ ∧ t.busy = false ∧ (t.out = .done ∨ ∃ fw, t.out = .synced fw)

theorem succeed_done_endedWell (s : State) : (s.succeed .done).EndedWell := ⟨rfl, rfl, .inl rfl⟩

theorem succeed_synced_endedWell (s : State) (fw : List Byte) : (s.succeed (.synced fw)).EndedWell :=
  ⟨rfl, rfl, .inr ⟨fw, rfl⟩⟩

/-- While bytes are taken: the image is still `m`, or a download has put its buffer there and the block is idle. -/
def State.KeepsOrLoaded (m : Memory) (t : State) : Prop := t.img = m ∨ t.EndedWell ∧ t.rxs = .idle

/-- However the host goes on when a frame has ended: only the end of a download (47_host_sequences.md R241) stores. -/
theorem reacted_keepsOrLoaded {L : Prop} {s t : State} (h : Reacted L s t) (hr : s.rxs = .idle) :
    t.KeepsOrLoaded s.img := by
  cases h with
  | loads buf fw => exact .inr ⟨succeed_synced_endedWell _ fw, hr⟩
  | answers | raises | waits | resets => exact .inl rfl

theorem react_keepsOrLoaded {s : State} (hr : s.rxs = .idle) (q : HostSeq) {e : ParseEnd} (he : e ≠ .error .busy) :
    (s.react q e).KeepsOrLoaded s.img :=
  reacted_keepsOrLoaded (s := { s with seq := .ret }) (react_cases s q e he) hr

theorem rxByte_img (s : State) (b : Byte) : (s.rxByte b).1.img = s.img := by rw [rxByte_frame]

theorem feed_keepsOrLoaded {m : Memory} (q : List Byte) {s : State} (h : s.KeepsOrLoaded m) :
    (feed q s).KeepsOrLoaded m := by
  have receiving {s : State} (hs : s.KeepsOrLoaded m) (hi : s.rxs ≠ .idle) : s.img = m :=
    hs.resolve_right fun hloaded => hi hloaded.2
  refine feed_induct (P := State.KeepsOrLoaded m) (fun _ _ h => h) ?_ ?_ q s h
  · intro s b t hs hi hb
    have himg := rxByte_img s b
    rw [hb] at himg
    exact .inl (himg.trans (receiving hs hi))
  · intro s b t e hs hi hb
    obtain ⟨he, hr, -, -⟩ := rxByte_some hb
    have himg := rxByte_img s b
    rw [hb] at himg
    rw [← receiving hs hi, ← himg]
    exact react_keepsOrLoaded hr t.seq he

theorem timeoutEvent_keepsOrLoaded (s : State) : s.timeoutEvent.KeepsOrLoaded s.img := by
  unfold State.timeoutEvent
  split
  · exact .inl rfl
  · next c hc =>
    have hne : (Except.error c : ParseEnd) ≠ .error .busy := fun he => timeoutCause_ne_busy hc (Except.error.inj he)
    exact feed_keepsOrLoaded _ (react_keepsOrLoaded (s := s.finish c.errReg) rfl s.seq hne)

/-- Everything an instruction or event can do keeps the image or ends an operation with success. -/
theorem ran_img_or_endedWell {s t : State} (h : Ran s t) : t.img = s.img ∨ t.EndedWell := by
  have taking {u : State} (hu : u.KeepsOrLoaded s.img) : u.img = s.img ∨ u.EndedWell := hu.imp_right And.left
  cases h with
  | refused | shows | answers | raises | sends => exact .inl rfl
  | stores | storesTwice => exact .inr (succeed_done_endedWell _)
  | receives | exchanges | arrives => exact taking (feed_keepsOrLoaded _ (.inl rfl))
  | timesOut => exact taking (timeoutEvent_keepsOrLoaded s)

/-- Settles O59: what runs in the step keeps the image or ends well (`ran_img_or_endedWell`), and of the state behind it the
program of the host changes nothing but the inputs to come. -/
theorem imageChangesOnlyOnSuccess : Obligations.ImageChangesOnlyOnSuccess := by
  intro s t h hne
  rcases step_cases h with ⟨-, rfl⟩ | ⟨inp, more, u, -, hu, -, rfl⟩
  · exact absurd rfl hne
  · have hran : u.img = s.img ∨ u.EndedWell := ran_img_or_endedWell (s := { s with inq := more }) hu
    revert hne
    split <;> exact hran.resolve_left

end Sys2Proof.Machine
end

section
/-! A timeout inside a driver read or write (60_exceptions.md R265, 47_host_sequences.md R237, R238, R241, R242): the four
sequences pass an error on in one way, and the timeout of each stage becomes ProtocolError(TIMEOUT) by it. -/

namespace Sys2Proof.Machine

/-- The sequences that wait for the reply of a driver read or write. -/
inductive HostSeq.Driver : HostSeq → Prop where
  | read (length : Byte) : Driver (.read length)
  | write (offset : Half) : Driver (.write offset)
  | download (k : Nat) (buf fw : List Byte) : Driver (.download k buf fw)
  | upload (k : Nat) : Driver (.upload k)

/-- An error in the reply ends the sequence: it is raised, relabelled by R265. -/
theorem react_driver_error {q : HostSeq} (hq : q.Driver) (s : State) (c : Cause) :
    s.react q (.error c) = ({ s with seq := .ret } : State).raise (blockCause c) := by
  rw [← react_withSeq]
  cases hq with
  | read length => exact react_read rfl length _
  | write offset => exact react_write rfl offset _
  | download k buf fw => exact react_download_error rfl rfl k buf fw
  | upload k => exact react_upload_error rfl rfl

/-- Every stage of a reception has its timeout, and R265 makes one cause of the three. -/
theorem timeoutCause_relabelled {r : RxStage} (h : r ≠ .idle) :
    ∃ c, timeoutCause r = some c ∧ blockCause c = .protoTimeout := by
  cases r with
  | idle => exact absurd rfl h
  | hdr | pay | trl => exact ⟨_, rfl, rfl⟩

theorem timeoutEvent_driver {s : State} (hr : s.rxs ≠ .idle) (hq : s.seq.Driver) :
    s.timeoutEvent = ({ s with seq := .ret } : State).raise .protoTimeout := by
  obtain ⟨c, hc, hlabel⟩ := timeoutCause_relabelled hr
  rw [timeoutEvent_reception hc, react_driver_error hq, hlabel]
  exact feed_idle rfl s.rxq

theorem step_timeout_driver {s : State} {more : List Input} (hi : s.inq = .timeout :: more) (hr : s.rxs ≠ .idle)
    (hq : s.seq.Driver) :
    step s = .next { ({ s with seq := .ret } : State).raise .protoTimeout with inq := afterRaise .protoTimeout more } := by
  have hrun : runInput .timeout { s with inq := more } =
      .next (({ s with inq := more, seq := .ret } : State).raise .protoTimeout) :=
    (runInput_timeout _).trans (congrArg _ (timeoutEvent_driver (s := { s with inq := more }) hr hq))
  rw [step_reception hi rfl hr hrun rfl, State.facing, programLeft_error rfl rfl]
  rfl

/-- Settles O47: the statement's four sequences are those of `HostSeq.Driver`. -/
theorem driverTimeoutRelabelled : Obligations.DriverTimeoutRelabelled := by
  intro more s hi hr ⟨l, off, k, buf, fw, hseq⟩
  have hq : s.seq.Driver := by
    rcases hseq with h | h | h | h <;> rw [h]
    · exact .read l
    · exact .write off
    · exact .download k buf fw
    · exact .upload k
  exact step_timeout_driver hi hr hq

end Sys2Proof.Machine
end

section
/-! What the host issues while `BUSY` is 1 (70_reset_and_hazards.md R288, 60_exceptions.md R258). Every operation of R81
and host sequence of R82 begins with one check of `BUSY` (`issue`), which alone answers then, whatever it would do itself. -/

namespace Sys2Proof.Machine

/-- An operation that receives checks `BUSY` before its sequence begins. -/
theorem runSequence_eq_issue (s : State) (first : State → State) :
    runSequence s first = issue s fun t => (first t).drain := rfl

/-- An instruction that the host issues or calls is a body behind the check of `BUSY`. -/
theorem exec_eq_issue {i : Instr} (h : issuedInstr i = true) : ∃ body, ∀ s, exec i s = issue s body := by
  cases i
  case wFrameHeader | wFrameTrailer | mChanRecord | mNameRecord | mFmEntry => cases h
  case mSetFields c => cases c <;> cases h
  case frameParse | xcvRecv | drvIdentify | drvRead | drvWrite | syncDownload | syncUpload =>
    exact ⟨_, fun s => by dsimp only [exec]; exact runSequence_eq_issue s _⟩
  all_goals exact ⟨_, fun _ => by dsimp only [exec]; rfl⟩

theorem exec_busy {i : Instr} {s : State} (h : issuedInstr i = true) (hb : s.busy = true) :
    exec i s = .next { s with out := .error .busy } := by
  obtain ⟨body, hbody⟩ := exec_eq_issue h
  exact (hbody s).trans (issue_busy hb body)

/-- Each row of the operation map is an operation that the host issues (R81). -/
theorem issuedInstr_of_decodeOp {op : Byte} {a : Operands} {i : Instr} (h : decodeOp op a = some i) :
    issuedInstr i = true := by
  unfold decodeOp at h
  split at h <;> cases h <;> rfl

/-- `BUSY` is checked before the code is looked up (R258): an unknown one is refused like a known one. -/
theorem runInput_issue_busy (op : Byte) (a : Operands) {s : State} (hb : s.busy = true) :
    runInput (.issue op a) s = .next { s with out := .error .busy } := by
  cases hop : decodeOp op a with
  | none =>
    have hdecode : decode (.issue op a) = .error .badOpsel := by rw [decode, hop]
    rw [runInput, hdecode]
    exact issue_busy hb fun t => t.raise .badOp
  | some i =>
    have hdecode : decode (.issue op a) = .ok i := by rw [decode, hop]
    rw [runInput_decoded hdecode, exec_busy (issuedInstr_of_decodeOp hop) hb]

/-- To the host's program the refusal is an error like any other (log entry 35). -/
theorem raisedBy_busy (op : Byte) (a : Operands) {s : State} (hb : s.busy = true) :
    RaisedBy (.issue op a) s { s with out := .error .busy } .busy :=
  ⟨rfl, .inl ⟨.inl ⟨op, a, rfl⟩, .inl hb⟩⟩

theorem step_issue_busy {op : Byte} {a : Operands} {more : List Input} {s : State} (hb : s.busy = true)
    (hi : s.inq = .issue op a :: more) : step s = .next { s with inq := afterRaise .busy more, out := .error .busy } := by
  have hrun := runInput_issue_busy op a (s := { s with inq := more }) hb
  have hraised := raisedBy_busy op a (s := { s with inq := more }) hb
  rw [step_cons hi, hrun]
  exact hostRuns_raised rfl ((raisedIn_eq_some_iff ..).mpr hraised)

/-- Settles O14: `exec_busy` for operations and host sequences, `step_issue_busy` for every code that can be issued. -/
theorem busyIssueRefused : Obligations.BusyIssueRefused :=
  ⟨fun _ _ => exec_busy, fun _ _ _ _ => step_issue_busy⟩

end Sys2Proof.Machine
end

section
/-! The state that reset leaves (70_reset_and_hazards.md R280, 10_state.md R31): the invariants that every step keeps
(`stepKeepsImageForm`, `stepKeepsSequencer`, `stepKeepsStatus`) hold there, which rests on the values that log entries 1, 2
and 15 choose. -/

namespace Sys2Proof.Machine

/-- The buffers are full of zeros and `CRC` is zero (log entry 2). -/
theorem reset_registersWf : State.reset.RegistersWf :=
  ⟨⟨List.length_replicate, List.length_replicate, List.length_replicate⟩, BitVec.getLsbD_zero⟩

/-- The block is idle and no host sequence is in progress (log entry 15). -/
theorem reset_settled : State.reset.Settled := settled_of_idle rfl rfl rfl rfl reset_registersWf

/-- `(OK, 0)` is in the table of R251. -/
theorem reset_statusWf : State.reset.StatusWf := rfl

/-- Settles O60: R280's values are those of `State.reset`; the invariants are the lemmas above. -/
theorem resetState : Obligations.ResetState := by
  obtain ⟨hsequencer, hregisters, hseq⟩ := (settled_iff _).mp reset_settled
  exact ⟨⟨rfl, rfl, rfl, rfl, rfl⟩, reset_memory_wf, hsequencer, hregisters, hseq, reset_statusWf⟩

end Sys2Proof.Machine
end
